-- ==== Sys2Proof/Word.lean ====
section
/-!
DEFINITION. Sys2Proof/Word.lean: the word types of the block. The stream is a stream of unsigned
8-bit bytes (R6), identifiers travel in 32-bit fields (R6, R25), and a command record carries an
`op` field and operand fields (R75, R76).
-/

namespace Sys2Proof

/-- One byte of the inbound or outbound stream: 8 bits, unsigned (R6). -/
abbrev Byte := BitVec 8

/-- A 32-bit interface field: identifier, bitrate, filter_id, filter_mask (R6, R27, R76). -/
abbrev Word32 := BitVec 32

/-- A command record as it stands on a port: `op` in bits 2:0 (R75), the operand fields of R76
above it. 104 bits are what the longest operand list, ENCODE_DATA's, takes
(3 + 32 + 1 + 4 + 64). DESIGN CHOICE (log 5): the spec gives the fields' names and widths only. -/
abbrev Record := BitVec 104

end Sys2Proof
end

