-- ==== Sys2Proof/Config.lean ====
section
/-!
DEFINITION. Sys2Proof/Config.lean: the implementation parameters of R6. All but one are fixed by
the spec; the one it leaves OPEN is the capacity of the ReceiveBuffer (R6, R7, D4).
-/

namespace Sys2Proof

/-- `START`, the start marker (R6, R61). -/
def START : Byte := 0xAA

/-- `STOP`, the stop marker (R6, R61). -/
def STOP : Byte := 0x55

/-- `TYPE_ERROR`, the type byte of an error frame (R6, R65). -/
def TYPE_ERROR : Byte := 0x15

/-- `TYPE_CONFIG`, the command-type byte of a configuration frame (R6, R66). -/
def TYPE_CONFIG : Byte := 0x13

/-- `DATA_TYPE_MASK` (R6). -/
def DATA_TYPE_MASK : Byte := 0xC0

/-- `DATA_TYPE_MATCH` (R6). -/
def DATA_TYPE_MATCH : Byte := 0xC0

/-- `EXT_BIT`, header bit 5 (R6, R63). -/
def EXT_BIT : Byte := 0x20

/-- `DLC_MASK`, header bits 3..0 (R6, R63). -/
def DLC_MASK : Byte := 0x0F

/-- `ENC_MAX_PAYLOAD`: the longest payload ENCODE_DATA sends (R6, R100). -/
def ENC_MAX_PAYLOAD : Nat := 8

/-- `DEC_MAX_DLC`: the longest payload a received header declares (R6, R74). -/
def DEC_MAX_DLC : Nat := 15

/-- `MIN_CLASSIFY_LEN`: the length gate of step 2 (R6, R125). -/
def MIN_CLASSIFY_LEN : Nat := 4

/-- `MAX_FRAME_LEN`: the longest frame, extended with dlc 15 (R6, R70). -/
def MAX_FRAME_LEN : Nat := 22

/-- `ERROR_FRAME_LEN` (R6, R65). -/
def ERROR_FRAME_LEN : Nat := 4

/-- `CONFIG_FRAME_LEN` (R6, R66). -/
def CONFIG_FRAME_LEN : Nat := 16

/-- What an implementation fixes. `rxbufCap` is `RXBUF_CAP`: `none` for the unbounded buffer of
the source, `some c` for a finite capacity of `c` bytes (R6, R7). It is plain data carried by
the state and changed by no step (log 1). -/
structure Config where
  rxbufCap : Option Nat
  deriving DecidableEq, Repr

/-- The reference configuration: `RXBUF_CAP = ∞` (R7). -/
def Config.reference : Config := { rxbufCap := none }

/-- R6: a finite `RXBUF_CAP` is at least `MAX_FRAME_LEN`. -/
def Config.legal (c : Config) : Bool :=
  match c.rxbufCap with
  | none => true
  | some cap => decide (MAX_FRAME_LEN ≤ cap)

end Sys2Proof
end

