-- ==== Sys2Proof/Syntax.lean ====
section
/-!
DEFINITION. Sys2Proof/Syntax.lean: the instructions, one constructor per row of
spec/opcode_table.json: the eight command rows of the command interface (R75) and the five
type-byte rows of the wire format (R69).
-/

namespace Sys2Proof

/-- The command port a record is issued at: the RX agent's or the TX agent's (R9, R75). -/
inductive Port where
  | rx
  | tx
  deriving DecidableEq, Repr

/-- The instructions of the block.

A COMMAND carries the port it was issued at: R77 and R179 give a command at the other agent's port
the answer `BAD_OP`, so the port is part of what is executed.

A WIRE row is what the extraction step fetches at offset 1 of the ReceiveBuffer: the type byte
with its fields. The rest of the frame is that instruction's memory operand, read from the buffer
by its meaning, because the type byte alone classifies a frame (R69). -/
inductive Instr where
  /-- RESET, op 000, RX (R140). -/
  | reset (port : Port)
  /-- PUSH, op 001, RX: the next inbound byte (R120). -/
  | push (port : Port) (data : Byte)
  /-- EXTRACT, op 010, RX (R129). -/
  | extract (port : Port)
  /-- DRAIN, op 011, RX (R132). -/
  | drain (port : Port)
  /-- ENCODE_DATA, op 100, TX: identifier, extended flag, payload length, the 8 payload operand
  bytes `payload[0..7]` in order (R76, R100). -/
  | encodeData (port : Port) (id : Word32) (ext : Bool) (dlc : BitVec 4) (payload : List Byte)
  /-- ENCODE_CONFIG, op 101, TX (R76, R103). -/
  | encodeConfig (port : Port) (bitrate : Word32) (term silent erpt : Bool)
      (filterId filterMask : Word32)
  /-- RESERVED_110, op 110, either port (R77). -/
  | reserved110 (port : Port)
  /-- RESERVED_111, op 111, either port (R77). -/
  | reserved111 (port : Port)
  /-- WIRE_DATA_STD, type byte `110xdddd`: the unnamed bit 4 and the dlc (R63, R126). -/
  | wireDataStd (bit4 : Bool) (dlc : BitVec 4)
  /-- WIRE_DATA_EXT, type byte `111xdddd`: the unnamed bit 4 and the dlc (R63, R126). -/
  | wireDataExt (bit4 : Bool) (dlc : BitVec 4)
  /-- WIRE_ERROR, type byte `0x15` (R65, R127). -/
  | wireError
  /-- WIRE_CONFIG, type byte `0x13`: outbound only, inbound an unrecognized type (R66, R108). -/
  | wireConfig
  /-- WIRE_UNKNOWN: every type byte of no row above (R69, R128). -/
  | wireUnknown (type : Byte)
  deriving DecidableEq, Repr

end Sys2Proof
end

