-- ==== Sys2Proof/WellFormed.lean ====
section
/-!
DEFINITION. Sys2Proof/WellFormed.lean: which terms of `Instr` stand for something the encodings
admit. Field widths are in the types; two checks remain.
-/

namespace Sys2Proof

/-- R69: the type bytes of no other row of the wire table. `0x13` is unrecognized inbound too, and
has its own row, WIRE_CONFIG. -/
def Byte.isUnknownType (t : Byte) : Bool :=
  (t &&& DATA_TYPE_MASK) != DATA_TYPE_MATCH && t != TYPE_ERROR && t != TYPE_CONFIG

/-- Well-formed instructions: ENCODE_DATA has exactly the eight payload operand bytes of R76
(`payload[0..7]`), and WIRE_UNKNOWN's type byte belongs to no other row (R69). -/
def Instr.wf : Instr → Bool
  | .encodeData _ _ _ _ payload => payload.length == 8
  | .wireUnknown t => Byte.isUnknownType t
  | .reset _ | .push _ _ | .extract _ | .drain _ | .encodeConfig _ _ _ _ _ _ _
  | .reserved110 _ | .reserved111 _ | .wireDataStd _ _ | .wireDataExt _ _
  | .wireError | .wireConfig => true

end Sys2Proof
end

