-- ==== Sys2Proof/Decode.lean ====
section
/-!
DEFINITION. Sys2Proof/Decode.lean: byte order (R12, R42), the decoder of command records (R75, R76)
and of wire type bytes (R69), the byte-level decoder over both, and, after them, the encoder.

The command interface is a record of named fields (R75, R76); the bit positions of the operand
fields above `op[2:0]` are the model's (DESIGN CHOICE, log 5): the fields stand one above the
other, without gaps, in the order R76 lists them.
-/

namespace Sys2Proof

/-! ### Byte order (R12, R42) -/

/-- R12: `fromLE(s)`, the sum of `s[i]·256^i`. -/
def fromLE : List Byte → Nat
  | [] => 0
  | b :: bs => b.toNat + 256 * fromLE bs

/-- The `n` low bytes of `v`, least significant first. -/
def leBytes : Nat → Nat → List Byte
  | 0, _ => []
  | n + 1, v => BitVec.ofNat 8 v :: leBytes n (v / 256)

/-- R12: `LE16(v) = [v[7:0], v[15:8]]`, of the low 16 bits of a 32-bit field. -/
def le16 (v : Word32) : List Byte := [v.extractLsb' 0 8, v.extractLsb' 8 8]

/-- R12: `LE32(v) = [v[7:0], v[15:8], v[23:16], v[31:24]]`. -/
def le32 (v : Word32) : List Byte :=
  [v.extractLsb' 0 8, v.extractLsb' 8 8, v.extractLsb' 16 8, v.extractLsb' 24 8]

/-! ### Command records (R75, R76) -/

/-- `op`, bits 2:0 of a record (R75, spec/opcode_table.json). -/
def Record.op (r : Record) : BitVec 3 := r.extractLsb' 0 3

/-- The eight payload operand bytes of ENCODE_DATA, `payload[0]` lowest (R76). -/
def Record.payload (r : Record) : List Byte :=
  [r.extractLsb' 40 8, r.extractLsb' 48 8, r.extractLsb' 56 8, r.extractLsb' 64 8,
   r.extractLsb' 72 8, r.extractLsb' 80 8, r.extractLsb' 88 8, r.extractLsb' 96 8]

/-- The command a record at a port stands for (R75, R76). Total: every record is a command, and
record bits that an op has no field for are not read (R75: 'ignored' for the reserved ops). -/
def decodeRecord (p : Port) (r : Record) : Instr :=
  match r.op.toNat with
  | 0 => .reset p
  | 1 => .push p (r.extractLsb' 3 8)
  | 2 => .extract p
  | 3 => .drain p
  | 4 => .encodeData p (r.extractLsb' 3 32) (r.getLsbD 35) (r.extractLsb' 36 4) r.payload
  | 5 => .encodeConfig p (r.extractLsb' 3 32) (r.getLsbD 35) (r.getLsbD 36) (r.getLsbD 37)
      (r.extractLsb' 38 32) (r.extractLsb' 70 32)
  | 6 => .reserved110 p
  | _ => .reserved111 p

/-! ### Wire type bytes (R69) -/

/-- The row of the wire table a type byte belongs to, by the table's masks and matches in the
table's order (R69, spec/opcode_table.json). Total: what no row matches is WIRE_UNKNOWN. -/
def decodeType (h : Byte) : Instr :=
  if h &&& 0xE0 = 0xC0 then .wireDataStd (h.getLsbD 4) (h.extractLsb' 0 4)
  else if h &&& 0xE0 = 0xE0 then .wireDataExt (h.getLsbD 4) (h.extractLsb' 0 4)
  else if h = TYPE_ERROR then .wireError
  else if h = TYPE_CONFIG then .wireConfig
  else .wireUnknown h

/-! ### The byte-level decoder -/

/-- Where instruction bytes were taken from: a command port, or the type-byte place of the inbound
stream. -/
inductive Source where
  | port (p : Port)
  | wire
  deriving DecidableEq, Repr

/-- Why bytes are no instruction. -/
inductive DecodeError where
  /-- A command record is 13 bytes; `given` bytes were given. -/
  | recordLength (given : Nat)
  /-- A wire type byte is one byte; `given` bytes were given. -/
  | typeLength (given : Nat)
  deriving DecidableEq, Repr

/-- Bytes of a command record: 104 bits. -/
def RECORD_BYTES : Nat := 13

/-- A record from its bytes, least significant byte first. -/
def recordOfBytes (bs : List Byte) : Record := BitVec.ofNat 104 (fromLE bs)

/-- A record's bytes, least significant byte first. -/
def bytesOfRecord (r : Record) : List Byte := leBytes RECORD_BYTES r.toNat

/-- The instruction some bytes stand for, on any bytes at all; bytes of another number than the
source takes are rejected by name. -/
def decode : Source → List Byte → Except DecodeError Instr
  | .port p, bs =>
    if bs.length = RECORD_BYTES then .ok (decodeRecord p (recordOfBytes bs))
    else .error (.recordLength bs.length)
  | .wire, [h] => .ok (decodeType h)
  | .wire, bs => .error (.typeLength bs.length)

/-- The port whose agent runs an op (R75); the reserved ops stand at either, here at RX. -/
def homePort (op : Nat) : Port := if op = 4 ∨ op = 5 then .tx else .rx

/-- Where a word of spec/opcode_table.json stands (log 6): the command rows name bits 2:0 alone, so
a one-byte word below 8 is a command's `op`; every other one-byte word is a wire type byte. -/
def tableSource (nbits w : Nat) : Source :=
  if nbits ≤ 8 ∧ 8 ≤ w ∧ w < 256 then .wire else .port (homePort (w % 8))

/-- The bytes of a table word at its source, every bit above the word zero. -/
def tableBytes (nbits w : Nat) : List Byte :=
  match tableSource nbits w with
  | .wire => [BitVec.ofNat 8 w]
  | .port _ => leBytes RECORD_BYTES w

/-- The instruction the decoder reads from a word of spec/opcode_table.json (log 6). -/
def decodeTableWord (nbits w : Nat) : Option Instr :=
  match decode (tableSource nbits w) (tableBytes nbits w) with
  | .ok i => some i
  | .error _ => none

/-! ### The encoder -/

/-- A record that holds an op and nothing else. -/
def opOnly (op : BitVec 3) : Record := op.setWidth 104

/-- The record of a command (R75, R76); a wire row has none and answers `none`. -/
def encodeRecord : Instr → Option (Port × Record)
  | .reset p => some (p, opOnly 0)
  | .push p data => some (p, (data ++ (1 : BitVec 3) : BitVec 11).setWidth 104)
  | .extract p => some (p, opOnly 2)
  | .drain p => some (p, opOnly 3)
  | .encodeData p id ext dlc payload =>
    some (p, BitVec.ofNat 64 (fromLE payload) ++ dlc ++ BitVec.ofBool ext ++ id ++ (4 : BitVec 3))
  | .encodeConfig p bitrate term silent erpt filterId filterMask =>
    some (p, (filterMask ++ filterId ++ BitVec.ofBool erpt ++ BitVec.ofBool silent
      ++ BitVec.ofBool term ++ bitrate ++ (5 : BitVec 3) : BitVec 102).setWidth 104)
  | .reserved110 p => some (p, opOnly 6)
  | .reserved111 p => some (p, opOnly 7)
  | .wireDataStd _ _ | .wireDataExt _ _ | .wireError | .wireConfig | .wireUnknown _ => none

/-- The type byte of a wire row (spec/opcode_table.json); a command has none. -/
def encodeType : Instr → Option Byte
  | .wireDataStd bit4 dlc => some ((6 : BitVec 3) ++ BitVec.ofBool bit4 ++ dlc)
  | .wireDataExt bit4 dlc => some ((7 : BitVec 3) ++ BitVec.ofBool bit4 ++ dlc)
  | .wireError => some TYPE_ERROR
  | .wireConfig => some TYPE_CONFIG
  | .wireUnknown t => some t
  | .reset _ | .push _ _ | .extract _ | .drain _ | .encodeData _ _ _ _ _
  | .encodeConfig _ _ _ _ _ _ _ | .reserved110 _ | .reserved111 _ => none

/-- Where an instruction's bytes stand, and the bytes. -/
def encode (i : Instr) : Source × List Byte :=
  match encodeRecord i with
  | some (p, r) => (.port p, bytesOfRecord r)
  | none => (.wire, (encodeType i).toList)

end Sys2Proof
end

