-- ==== Sys2Proof/Machine/State.lean ====
section
/-!
DEFINITION. Sys2Proof/Machine/State.lean: the value types that cross the block's interface (R25 to
R29, R122, R171), the state of the block, its reset value, and the reasons a step can stop.
-/

namespace Sys2Proof.Machine

/-! ### Value types at the interface -/

/-- The two identifier spaces; on the wire `extended` is header bit 5 = 1 (R25). -/
inductive AddressWidth where
  | standard
  | extended
  deriving DecidableEq, Repr

/-- R25: `CanFrame`. The payload of a decoded frame has 0..15 bytes (R74, C1). -/
structure CanFrame where
  identifier : Word32
  addressWidth : AddressWidth
  payload : List Byte
  deriving DecidableEq, Repr

/-- R26, R68: `ErrorNotification`, a closed set of five. -/
inductive ErrorNotification where
  | unknown
  | busOvercurrent
  | busOvervoltage
  | busTransmitFailure
  | transmitBufferFull
  deriving DecidableEq, Repr

/-- R14, R122: `Unit`, the result kind of one extraction step. -/
inductive ScanUnit where
  | none
  | data (f : CanFrame)
  | error (e : ErrorNotification)
  | decodeFailure (code : Byte)
  deriving DecidableEq, Repr

/-- R122: the diagnostic code of an extraction step, one per path. -/
inductive Reason where
  | waitNoMarker
  | noise
  | waitShort
  | waitData
  | dataOk
  | dataBadStop
  | errOk
  | errDecodeFailure
  | errBadStop
  | unknownType
  deriving DecidableEq, Repr

/-- R122: the result of one extraction step. -/
structure ExtractResult where
  discard : Nat
  unit : ScanUnit
  reason : Reason
  deriving DecidableEq, Repr

/-- R171: the response statuses. -/
inductive Status where
  | ok
  | encLen
  | bufFull
  | badOp
  deriving DecidableEq, Repr

/-- R29: what a response carries beside its status: nothing, EXTRACT's one result, or DRAIN's
sequence of results. -/
inductive ResponseBody where
  | plain
  | result (r : ExtractResult)
  | results (rs : List ExtractResult)
  deriving DecidableEq, Repr

/-- R29: the response record a command returns to its issuer. -/
structure Response where
  status : Status
  body : ResponseBody
  deriving DecidableEq, Repr

/-- One emitted event, on the output it was emitted to (R13, R28). -/
inductive Event where
  | tx (b : Byte)
  | frameOut (f : CanFrame)
  | errOut (e : ErrorNotification)
  deriving DecidableEq, Repr

/-- A command issued at a port (R75). -/
structure Issue where
  port : Port
  record : Record
  deriving DecidableEq, Repr

/-! ### The state -/

/-- The state of the block: the ReceiveBuffer, which is all the spec gives it (R20, R22), the
implementation's parameter, and what stands at its interface. -/
structure State where
  /-- The implementation's parameter `RXBUF_CAP` (R6, R7); no step changes it (log 1). -/
  config : Config
  /-- `rxbuf`, oldest byte first (R20). The address of a byte is its place in the list (R40): there
  is no gap (R21), so a list of bytes is already the one form of this memory (log 4). -/
  rxbuf : List Byte
  /-- All emitted events in step order (R51); `tx`, `frame_out` and `err_out` (R28) are its
  projections. -/
  history : List Event
  /-- The responses returned at the RX port, oldest first (R29; log 2). -/
  rxResponses : List Response
  /-- The responses returned at the TX port, oldest first (R29; log 2). -/
  txResponses : List Response
  /-- The model's own: the commands issued and not yet taken, oldest first (R49; log 3). -/
  pending : List Issue
  deriving DecidableEq, Repr

/-- The power-on state of a block with a given parameter: `rxbuf = []`, empty output streams (R32,
R190), no response returned (log 2) and no command waiting (log 3). -/
def State.resetWith (c : Config) : State :=
  { config := c, rxbuf := [], history := [], rxResponses := [], txResponses := [], pending := [] }

/-- The machine right after reset (R32, R190), in the reference configuration of R7 (log 1). -/
def State.reset : State := State.resetWith Config.reference

/-! ### Reasons to stop -/

/-- Faults of the model. The block has none: no condition traps (R175). -/
inductive Fault where
  /-- A read at an offset the ReceiveBuffer does not hold. Raised by the checked reads `memRead`
  and `memReadN` alone. Safe: R41 says such a read never happens, and no step raises it. -/
  | offsetBeyondBuffer (offset : Nat)
  deriving DecidableEq, Repr

/-- Refusals of the model. -/
inductive Refusal where
  /-- An instruction that has no meaning yet. Raised by `exec` alone, for an arm that is rejected by
  name; no arm is. Safe. -/
  | notModelled (mnemonic : String)
  deriving DecidableEq, Repr

end Sys2Proof.Machine
end

