-- ==== Sys2Proof/Machine/Ops.lean ====
section
/-!
DEFINITION. Sys2Proof/Machine/Ops.lean: the named operations over memory, outputs, responses and
pending commands: the state primitives of R13, and the port check of R77.

TAKING AN EXCEPTION has no operation here: no condition of this block traps, nothing is saved, no
handler exists and there is no return (R175). Every abnormal condition is a response status
(`respond`), an extraction result, or an event (`emit`).
-/

namespace Sys2Proof.Machine

/-- The three outcomes of a step of this machine. -/
abbrev Result := Host.Outcome State Fault Refusal

/-! ### The ReceiveBuffer as memory (R13, R20, R40) -/

/-- The contents of the ReceiveBuffer. -/
abbrev Memory := List Byte

/-- The memory as address and byte pairs: byte `i` of the buffer at address `base + i`. -/
def memoryCells (base : Nat) : Memory → List Host.Cell
  | [] => []
  | b :: bs => (base, b) :: memoryCells (base + 1) bs

/-- R20: `len(rxbuf) ≤ RXBUF_CAP`. -/
def Memory.fits (c : Config) (m : Memory) : Bool :=
  match c.rxbufCap with
  | none => true
  | some cap => decide (m.length ≤ cap)

/-- The form of a well-formed ReceiveBuffer: the capacity bound of R20, and no gap (R21): its
addresses are 0, 1, 2, … in order, which a list of bytes has by its form (log 4). -/
def Memory.wf (c : Config) (m : Memory) : Bool :=
  Memory.fits c m && ((memoryCells 0 m).map Prod.fst == List.range m.length)

/-- R13: `MemRead(i, 1)`, the byte at offset `i`. An offset the buffer does not hold faults; R41
says that this never happens. -/
def memRead (m : Memory) (i : Nat) : Except Fault Byte :=
  match m[i]? with
  | some b => .ok b
  | none => .error (.offsetBeyondBuffer i)

/-- R12, R13: `MemRead(i, n)`, the bytes at offsets `i` up to but not including `i + n`. -/
def memReadN (m : Memory) (i n : Nat) : Except Fault (List Byte) :=
  if i + n ≤ m.length then .ok ((m.drop i).take n) else .error (.offsetBeyondBuffer m.length)

/-! ### State updates (R13) -/

/-- `rxbuf <- m`: RESET's clear, the noise flush, and the two updates below. -/
def State.setRxbuf (s : State) (m : Memory) : State := { s with rxbuf := m }

/-- R13: `Append(b)`, `rxbuf <- rxbuf ++ [b]`. -/
def State.append (s : State) (b : Byte) : State := s.setRxbuf (s.rxbuf ++ [b])

/-- R13: `Discard(n)`, `rxbuf <- drop(n, rxbuf)`. -/
def State.discard (s : State) (n : Nat) : State := s.setRxbuf (s.rxbuf.drop n)

/-- R13: `Emit`, for a sequence of events, first event first (R51). -/
def State.emit (s : State) (es : List Event) : State := { s with history := s.history ++ es }

/-- R13, R29: `respond(v)`, to the issuer at a port. -/
def State.respond (s : State) (p : Port) (v : Response) : State :=
  match p with
  | .rx => { s with rxResponses := s.rxResponses ++ [v] }
  | .tx => { s with txResponses := s.txResponses ++ [v] }

/-- The pending commands replaced. -/
def State.setPending (s : State) (q : List Issue) : State := { s with pending := q }

/-- The host issues a command record at a port, behind the commands already issued (R49, R75). -/
def State.issue (s : State) (p : Port) (r : Record) : State :=
  s.setPending (s.pending ++ [{ port := p, record := r }])

/-! ### The output streams (R28): projections of the one history (R51) -/

/-- The byte an event puts on `tx`. -/
def Event.txByte : Event → Option Byte
  | .tx b => some b
  | .frameOut _ | .errOut _ => none

/-- The frame an event puts on `frame_out`. -/
def Event.frame : Event → Option CanFrame
  | .frameOut f => some f
  | .tx _ | .errOut _ => none

/-- The notification an event puts on `err_out`. -/
def Event.notification : Event → Option ErrorNotification
  | .errOut e => some e
  | .tx _ | .frameOut _ => none

/-- `tx`: the outbound bytes, in production order (R28). -/
def State.tx (s : State) : List Byte := s.history.filterMap Event.txByte

/-- `frame_out`: the decoded frames, in stream order (R28). -/
def State.frameOut (s : State) : List CanFrame := s.history.filterMap Event.frame

/-- `err_out`: the decoded error notifications, in stream order (R28). -/
def State.errOut (s : State) : List ErrorNotification := s.history.filterMap Event.notification

/-- The responses returned at a port, oldest first (R29). -/
def State.responsesAt (s : State) : Port → List Response
  | .rx => s.rxResponses
  | .tx => s.txResponses

/-! ### Responses and the port check (R77, R171, R179) -/

/-- A response that carries its status alone (R29). -/
def Response.plain (st : Status) : Response := { status := st, body := .plain }

/-- R77: the answer to an illegal command: no state change, nothing emitted, `BAD_OP`. -/
def badOp (p : Port) (s : State) : Result := .next (s.respond p (Response.plain .badOp))

/-- R77, R179: the `op` check comes first. A command at the port of its own agent takes its
effect `k`; at the other port it is illegal. -/
def onPort (own p : Port) (s : State) (k : Result) : Result := if p = own then k else badOp p s

end Sys2Proof.Machine
end

