-- ==== Sys2Proof/Machine/Flags.lean ====
section
/-!
DEFINITION. Sys2Proof/Machine/Flags.lean: the block has no condition flags (R23). What it calls
flags or codes stands here: the flags byte of a configuration frame (R67, R104), the codes of the
response statuses (R171) and of the extraction reasons (R122), and the error code byte (R68).
-/

namespace Sys2Proof.Machine

/-- R104: `flags = (erpt << 2) | (silent << 1) | term`, bits 7:3 zero (R67). -/
def configFlags (term silent erpt : Bool) : Byte :=
  ((BitVec.ofBool erpt).setWidth 8 <<< 2) ||| ((BitVec.ofBool silent).setWidth 8 <<< 1)
    ||| (BitVec.ofBool term).setWidth 8

/-- R171: the response status codes. -/
def Status.code : Status → Nat
  | .ok => 0
  | .encLen => 1
  | .bufFull => 2
  | .badOp => 3

/-- R122: the reason codes. -/
def Reason.code : Reason → Nat
  | .waitNoMarker => 0
  | .noise => 1
  | .waitShort => 2
  | .waitData => 3
  | .dataOk => 4
  | .dataBadStop => 5
  | .errOk => 6
  | .errDecodeFailure => 7
  | .errBadStop => 8
  | .unknownType => 9

/-- R16, R131: the reasons of a step that waits. -/
def Reason.isWait : Reason → Bool
  | .waitNoMarker | .waitShort | .waitData => true
  | .noise | .dataOk | .dataBadStop | .errOk | .errDecodeFailure | .errBadStop
  | .unknownType => false

/-- R68: the code byte of a notification. -/
def ErrorNotification.code : ErrorNotification → Byte
  | .unknown => 0x00
  | .busOvercurrent => 0x01
  | .busOvervoltage => 0x02
  | .busTransmitFailure => 0x03
  | .transmitBufferFull => 0x04

end Sys2Proof.Machine
end

