-- ==== Sys2Proof/Machine/Operands.lean ====
section
/-!
DEFINITION. Sys2Proof/Machine/Operands.lean: the operand forms of frames: the fields of a data
frame's header byte (R63), its identifier field (R64) and its length (R62, R70).
-/

namespace Sys2Proof.Machine

/-- R63: header bit 5, `extended = (header & 0x20) != 0` (R126). -/
def headerExt (h : Byte) : Bool := h &&& EXT_BIT != 0

/-- R63: `dlc = header & 0x0F`, 0..15 (R74). -/
def headerDlc (h : Byte) : Nat := (h &&& DLC_MASK).toNat

/-- R62: `W`, the bytes of the identifier field. -/
def idWidth (ext : Bool) : Nat := if ext then 4 else 2

/-- R126: `total = dlc + 3 + W`. -/
def totalLength (h : Byte) : Nat := headerDlc h + 3 + idWidth (headerExt h)

/-- R69: the class of a type byte. -/
inductive TypeClass where
  | data
  | error
  | unrecognized
  deriving DecidableEq, Repr

/-- R69: classification by the type byte alone, the two tests in the spec's order. -/
def classify (h : Byte) : TypeClass :=
  if h &&& DATA_TYPE_MASK = DATA_TYPE_MATCH then .data
  else if h = TYPE_ERROR then .error
  else .unrecognized

/-- R63: the header byte with given fields: bits 7:6 = `11`, then `ext`, the unnamed bit 4, `dlc`. -/
def wireHeader (ext bit4 : Bool) (dlc : BitVec 4) : Byte :=
  (3 : BitVec 2) ++ BitVec.ofBool ext ++ BitVec.ofBool bit4 ++ dlc

/-- R101: the header byte ENCODE_DATA writes, `0xC0 | (0x20 if ext else 0) | dlc`. -/
def encodeHeader (ext : Bool) (dlc : BitVec 4) : Byte :=
  0xC0 ||| (if ext then EXT_BIT else 0) ||| dlc.setWidth 8

/-- R64, R102: the identifier field ENCODE_DATA writes: `LE32(id)` if extended, else
`LE16(id mod 2^16)`. -/
def encodeId (ext : Bool) (id : Word32) : List Byte := if ext then le32 id else le16 id

end Sys2Proof.Machine
end

