-- ==== Sys2Proof/Machine/Codec.lean ====
section
/-!
DEFINITION. Sys2Proof/Machine/Codec.lean: the Wire Codec (R2): pure functions between frames and
their bytes. There is no decoder for the configuration frame (R108).
-/

namespace Sys2Proof.Machine

/-- R100: the bytes of a data frame. -/
def encodeDataFrame (id : Word32) (ext : Bool) (dlc : BitVec 4) (payload : List Byte) :
    List Byte :=
  [START, encodeHeader ext dlc] ++ encodeId ext id ++ payload.take dlc.toNat ++ [STOP]

/-- R103: the 16 bytes of a configuration frame. -/
def encodeConfiguration (bitrate : Word32) (term silent erpt : Bool)
    (filterId filterMask : Word32) : List Byte :=
  [START, TYPE_CONFIG, configFlags term silent erpt] ++ le32 bitrate ++ le32 filterId
    ++ le32 filterMask ++ [STOP]

/-- R105: `decode_data_frame(header, id_bytes, payload_bytes)`: no mask on the identifier, the
payload verbatim; header bit 4 is not read (R71). -/
def decodeDataFrame (header : Byte) (idBytes payloadBytes : List Byte) : CanFrame :=
  { identifier := BitVec.ofNat 32 (fromLE idBytes)
    addressWidth := if headerExt header then .extended else .standard
    payload := payloadBytes }

/-- R106: `decode_error(code)`. -/
def decodeError (code : Byte) : ScanUnit :=
  if code = 0x00 then .error .unknown
  else if code = 0x01 then .error .busOvercurrent
  else if code = 0x02 then .error .busOvervoltage
  else if code = 0x03 then .error .busTransmitFailure
  else if code = 0x04 then .error .transmitBufferFull
  else .decodeFailure code

end Sys2Proof.Machine
end

