-- ==== Sys2Proof/Machine/Scanner.lean ====
section
/-!
DEFINITION. Sys2Proof/Machine/Scanner.lean: the extraction function `try_extract_one` (R123) in its
three steps, and how an extraction result is applied to the state (R129, R130, R132). Reads are
the checked reads of R13, so that R41 is a claim about this text and not built into it.
-/

namespace Sys2Proof.Machine

/-! ### The results (R122) -/

/-- A step that waits: discard 0, no unit (R16). -/
def waitFor (reason : Reason) : ExtractResult := { discard := 0, unit := .none, reason := reason }

/-- A step that discards `n` bytes and gives no unit. -/
def skip (n : Nat) (reason : Reason) : ExtractResult :=
  { discard := n, unit := .none, reason := reason }

/-! ### Steps 1 and 2 (R124, R125) -/

/-- Steps 1 and 2 of the extraction function: resynchronization (R124) and the minimum length
gate (R125); a buffer that passes both goes on to step 3, `go`. -/
def scanGate (m : Memory) (go : Except Fault ExtractResult) : Except Fault ExtractResult :=
  if m.length = 0 then .ok (waitFor .waitNoMarker)
  else do
    let first ← memRead m 0
    if first ≠ START then
      match m.findIdx? (· == START) with
      | some k => .ok (skip k .noise)
      | none => .ok (waitFor .waitNoMarker)
    else if m.length < MIN_CLASSIFY_LEN then .ok (waitFor .waitShort)
    else go

/-! ### Step 3, one branch per class of type byte (R126, R127, R128) -/

/-- Step 3, data frame with header `h` (R126). -/
def scanData (h : Byte) (m : Memory) : Except Fault ExtractResult :=
  if m.length < totalLength h then .ok (waitFor .waitData)
  else do
    let last ← memRead m (totalLength h - 1)
    if last ≠ STOP then .ok (skip (totalLength h) .dataBadStop)
    else do
      let idBytes ← memReadN m 2 (idWidth (headerExt h))
      let payload ← memReadN m (2 + idWidth (headerExt h)) (headerDlc h)
      .ok { discard := totalLength h
            unit := .data (decodeDataFrame h idBytes payload)
            reason := .dataOk }

/-- Step 3, error notification (R127). -/
def scanError (m : Memory) : Except Fault ExtractResult :=
  if m.length < ERROR_FRAME_LEN then .ok (waitFor .waitShort)
  else do
    let last ← memRead m 3
    if last ≠ STOP then .ok (skip ERROR_FRAME_LEN .errBadStop)
    else do
      let code ← memRead m 2
      match decodeError code with
      | .error e => .ok { discard := ERROR_FRAME_LEN, unit := .error e, reason := .errOk }
      | u => .ok { discard := ERROR_FRAME_LEN, unit := u, reason := .errDecodeFailure }

/-- Step 3, unrecognized type byte: start and type discarded, the type not rescanned (R128). -/
def scanUnknown : Except Fault ExtractResult := .ok (skip 2 .unknownType)

/-- Step 3: dispatch on the type byte (R123, R69). -/
def scanType (h : Byte) (m : Memory) : Except Fault ExtractResult :=
  match classify h with
  | .data => scanData h m
  | .error => scanError m
  | .unrecognized => scanUnknown

/-- R123: `try_extract_one(rxbuf)`. -/
def tryExtractOne (m : Memory) : Except Fault ExtractResult :=
  scanGate m (do
    let h ← memRead m 1
    scanType h m)

/-! ### Applying a result (R129, R130) -/

/-- R130: `route(unit)`: the events a unit puts on the outputs. -/
def route : ScanUnit → List Event
  | .data f => [.frameOut f]
  | .error e => [.errOut e]
  | .decodeFailure _ => []
  | .none => []

/-- R129: `Discard(r.discard)`, then `route(r.unit)`. -/
def State.applyResult (s : State) (r : ExtractResult) : State :=
  (s.discard r.discard).emit (route r.unit)

/-- R129: one extraction step applied to the state and answered with its result. -/
def extractWith (e : Except Fault ExtractResult) (s : State) : Result :=
  match e with
  | .error f => .fault f
  | .ok r => .next ((s.applyResult r).respond .rx { status := .ok, body := .result r })

/-! ### DRAIN's loop (R132) -/

/-- R132: extraction steps applied while the buffer is not empty and the last one discarded
something: the state after them and their results, in order. `fuel` bounds the iterations; R133:
the buffer's length is enough. -/
def drainLoop : Nat → State → Except Fault (State × List ExtractResult)
  | 0, s => .ok (s, [])
  | fuel + 1, s =>
    if s.rxbuf.length = 0 then .ok (s, [])
    else do
      let r ← tryExtractOne s.rxbuf
      if r.discard = 0 then .ok (s.applyResult r, [r])
      else do
        let (t, rs) ← drainLoop fuel (s.applyResult r)
        .ok (t, r :: rs)

end Sys2Proof.Machine
end

