-- ==== Sys2Proof/Machine/Receive.lean ====
section
/-!
DEFINITION. Sys2Proof/Machine/Receive.lean: the meanings of the RX agent's commands: RESET (R140),
PUSH (R120, R121), EXTRACT (R129), DRAIN (R132). Each checks its port first (R77, R179).
-/

namespace Sys2Proof.Machine

/-- The answer `OK` at the RX port, with nothing beside the status (R171). -/
def okRx (s : State) : Result := .next (s.respond .rx (Response.plain .ok))

/-- RESET (R140): the ReceiveBuffer is emptied; events already emitted stay. -/
def execReset (p : Port) (s : State) : Result := onPort .rx p s (okRx (s.setRxbuf []))

/-- PUSH into a full buffer of finite capacity (R121): the noise flush, then the append, if the
buffer holds no start marker; else the byte is not taken. -/
def pushFull (data : Byte) (s : State) : Result :=
  if START ∈ s.rxbuf then .next (s.respond .rx (Response.plain .bufFull))
  else okRx ((s.setRxbuf []).append data)

/-- PUSH (R120). -/
def execPush (p : Port) (data : Byte) (s : State) : Result :=
  onPort .rx p s
    (if s.config.rxbufCap = some s.rxbuf.length then pushFull data s else okRx (s.append data))

/-- EXTRACT (R129). -/
def execExtract (p : Port) (s : State) : Result :=
  onPort .rx p s (extractWith (tryExtractOne s.rxbuf) s)

/-- DRAIN (R132). -/
def execDrain (p : Port) (s : State) : Result :=
  onPort .rx p s
    (match drainLoop s.rxbuf.length s with
     | .error f => .fault f
     | .ok (t, rs) => .next (t.respond .rx { status := .ok, body := .results rs }))

end Sys2Proof.Machine
end

