-- ==== Sys2Proof/Machine/Reserved.lean ====
section
/-!
DEFINITION. Sys2Proof/Machine/Reserved.lean: the meanings of the reserved ops `110` and `111`: no
state change, nothing emitted, response `BAD_OP` at the port of issue (R77, R179).
-/

namespace Sys2Proof.Machine

/-- RESERVED_110 (R77). -/
def execReserved110 (p : Port) (s : State) : Result := badOp p s

/-- RESERVED_111 (R77). -/
def execReserved111 (p : Port) (s : State) : Result := badOp p s

end Sys2Proof.Machine
end

