-- ==== Sys2Proof/Machine/Transmit.lean ====
section
/-!
DEFINITION. Sys2Proof/Machine/Transmit.lean: the meanings of the TX agent's commands, ENCODE_DATA
(R100 to R102) and ENCODE_CONFIG (R103, R104). Each checks its port first (R77, R179).
-/

namespace Sys2Proof.Machine

/-- R100, R103: `for b in out: Emit(tx, b)`, first byte first, then `OK`. -/
def transmit (out : List Byte) (s : State) : Result :=
  .next ((s.emit (out.map Event.tx)).respond .tx (Response.plain .ok))

/-- ENCODE_DATA (R100): `ENC_LEN` and nothing emitted when `dlc > 8` (D6), else the frame. -/
def execEncodeData (p : Port) (id : Word32) (ext : Bool) (dlc : BitVec 4) (payload : List Byte)
    (s : State) : Result :=
  onPort .tx p s
    (if dlc.toNat > ENC_MAX_PAYLOAD then .next (s.respond .tx (Response.plain .encLen))
     else transmit (encodeDataFrame id ext dlc payload) s)

/-- ENCODE_CONFIG (R103). -/
def execEncodeConfig (p : Port) (bitrate : Word32) (term silent erpt : Bool)
    (filterId filterMask : Word32) (s : State) : Result :=
  onPort .tx p s (transmit (encodeConfiguration bitrate term silent erpt filterId filterMask) s)

end Sys2Proof.Machine
end

