-- ==== Sys2Proof/Machine/Wire.lean ====
section
/-!
DEFINITION. Sys2Proof/Machine/Wire.lean: the meanings of the wire rows: the extraction step of R123
with the row's type byte taken as the byte at offset 1. Steps 1 and 2 come first, as in every
extraction step; then the row's branch of step 3; the result is applied and answered as EXTRACT
does (R129). EXTRACT on a buffer that passes steps 1 and 2 is exactly the wire row its type byte
decodes to (log 7).
-/

namespace Sys2Proof.Machine

/-- An extraction step whose step 3 is `branch`. -/
def wireStep (branch : Memory → Except Fault ExtractResult) (s : State) : Result :=
  extractWith (scanGate s.rxbuf (branch s.rxbuf)) s

/-- WIRE_DATA_STD (R126): identifier of 2 bytes, total length dlc + 5. -/
def execWireDataStd (bit4 : Bool) (dlc : BitVec 4) (s : State) : Result :=
  wireStep (scanData (wireHeader false bit4 dlc)) s

/-- WIRE_DATA_EXT (R126): identifier of 4 bytes, total length dlc + 7. -/
def execWireDataExt (bit4 : Bool) (dlc : BitVec 4) (s : State) : Result :=
  wireStep (scanData (wireHeader true bit4 dlc)) s

/-- WIRE_ERROR (R127). -/
def execWireError (s : State) : Result := wireStep scanError s

/-- WIRE_CONFIG: inbound, an unrecognized type byte (R108, R128); outbound it is ENCODE_CONFIG's
to emit (R103). -/
def execWireConfig (s : State) : Result := wireStep (fun _ => scanUnknown) s

/-- WIRE_UNKNOWN (R128): every unrecognized type byte acts alike. -/
def execWireUnknown (_type : Byte) (s : State) : Result := wireStep (fun _ => scanUnknown) s

end Sys2Proof.Machine
end

