-- ==== Sys2Proof/Machine/Dispatch.lean ====
section
/-!
DEFINITION. Sys2Proof/Machine/Dispatch.lean: one arm per instruction, each one call of its meaning.
-/

namespace Sys2Proof.Machine

def exec (i : Instr) (s : State) : Host.Outcome State Fault Refusal :=
  match i with
  -- the RX agent's commands
  | .reset p => Sys2Proof.Machine.execReset p s
  | .push p data => Sys2Proof.Machine.execPush p data s
  | .extract p => Sys2Proof.Machine.execExtract p s
  | .drain p => Sys2Proof.Machine.execDrain p s
  -- the TX agent's commands
  | .encodeData p id ext dlc payload => Sys2Proof.Machine.execEncodeData p id ext dlc payload s
  | .encodeConfig p bitrate term silent erpt filterId filterMask => Sys2Proof.Machine.execEncodeConfig p bitrate term silent erpt filterId filterMask s
  -- the reserved ops
  | .reserved110 p => Sys2Proof.Machine.execReserved110 p s
  | .reserved111 p => Sys2Proof.Machine.execReserved111 p s
  -- the wire type bytes
  | .wireDataStd bit4 dlc => Sys2Proof.Machine.execWireDataStd bit4 dlc s
  | .wireDataExt bit4 dlc => Sys2Proof.Machine.execWireDataExt bit4 dlc s
  | .wireError => Sys2Proof.Machine.execWireError s
  | .wireConfig => Sys2Proof.Machine.execWireConfig s
  | .wireUnknown type => Sys2Proof.Machine.execWireUnknown type s

end Sys2Proof.Machine
end

