-- ==== Sys2Proof/Machine/Fetch.lean ====
section
/-!
DEFINITION. Sys2Proof/Machine/Fetch.lean: how the block takes its next command from its ports, and
how an instruction is placed where it is taken from. The block fetches nothing from memory (R47):
its commands come from the host, through the ports (R49, R75).
-/

namespace Sys2Proof.Machine

/-- The oldest pending command, decoded, and the state with that command taken; `none` when no
command waits (R49, R186). -/
def fetch (s : State) : Option (Instr × State) :=
  match s.pending with
  | [] => none
  | c :: rest => some (decodeRecord c.port c.record, s.setPending rest)

/-- A command record made the oldest pending command. -/
def State.placeRecord (s : State) (p : Port) (r : Record) : State :=
  s.setPending ({ port := p, record := r } :: s.pending)

/-- A type byte placed where an extraction step fetches it, offset 1 of the ReceiveBuffer: the
frame `AA`, the type byte and zeros, as long as the longest frame, over the front of the buffer. -/
def State.placeType (s : State) (h : Byte) : State :=
  s.setRxbuf ([START, h] ++ List.replicate (MAX_FRAME_LEN - 2) 0 ++ s.rxbuf.drop MAX_FRAME_LEN)

/-- A word of spec/opcode_table.json placed so that the next step runs it (log 6): a command's
record at its port; a wire type byte in the buffer, with an EXTRACT to fetch it (log 7). -/
def State.placeWord (s : State) (nbits w : Nat) : State :=
  match tableSource nbits w with
  | .port p => s.placeRecord p (BitVec.ofNat 104 w)
  | .wire => (s.placeType (BitVec.ofNat 8 w)).placeRecord .rx (opOnly 2)

end Sys2Proof.Machine
end

