-- ==== Sys2Proof/Machine/Step.lean ====
section
/-!
DEFINITION. Sys2Proof/Machine/Step.lean: one step of the block, and the placing of an instruction
where the next step takes it.
-/

namespace Sys2Proof.Machine

/-- One step of the block: the oldest pending command is taken and run as one atomic step (R8, R49);
between commands the block is idle with its state held (R186). -/
def step (s : State) : Host.Outcome State Fault Refusal :=
  match fetch s with
  | none => .next s
  | some (i, t) => exec i t

/-- `s` with a word of spec/opcode_table.json placed where the next step takes its instruction
from (log 6). -/
def State.withFetchWord (s : State) (nbits w : Nat) : State := s.placeWord nbits w

end Sys2Proof.Machine
end

