-- ==== Sys2Proof/Machine/Session.lean ====
section
/-!
DEFINITION. Sys2Proof/Machine/Session.lean: the host session of spec/42_host_session.md, a layer
ABOVE the block: what a host does with the block's commands and outputs (R150 to R160). Its state
is the host's and no part of `State` (R31). The transport is not modelled: each of its answers is
an argument (R150). No statement about the block rests on this file.
-/

namespace Sys2Proof.Machine

/-- R157: the timeout of a receive. -/
inductive Timeout where
  /-- Block until at least one byte arrives. -/
  | none
  /-- Wait at most that many ticks. A tick is the model's unit of waiting (DESIGN CHOICE, log 14). -/
  | duration (ticks : Nat)
  /-- Never block. -/
  | zero
  deriving DecidableEq, Repr

/-- R157: a pure poll: `zero`, and a duration of no ticks, which is no wait either (log 14). -/
def Timeout.isPoll : Timeout → Bool
  | .zero => true
  | .duration ticks => ticks == 0
  | .none => false

/-- What one tick of waiting on the transport brings: some bytes, none of them while it is silent, or
`none`, the failure of the transport (DESIGN CHOICE, log 14). -/
abbrev Arrival := Option (List Byte)

/-- How a blocking read ends (R154, R157). -/
inductive ReadEnd where
  /-- The bytes read; empty when the timeout expired. -/
  | bytes (bs : List Byte)
  /-- The transport failed (R160). -/
  | failed
  /-- It has not ended: no byte has arrived, and there is no upper bound to the wait. -/
  | waiting
  deriving DecidableEq, Repr

/-- The first tick that brings a byte or a failure; `silent` if none of them does. -/
def firstArrival (silent : ReadEnd) : List Arrival → ReadEnd
  | [] => silent
  | none :: _ => .failed
  | some [] :: later => firstArrival silent later
  | some (b :: bs) :: _ => .bytes (b :: bs)

/-- The blocking read of R154 over what the transport brings, tick by tick, silent ever after: at least
one byte, or none when a bounded wait has expired; without a bound a silent transport is waited on
(R157). -/
def blockingRead : Timeout → List Arrival → ReadEnd
  | .none, ticks => firstArrival .waiting ticks
  | .duration n, ticks => firstArrival (.bytes []) (ticks.take n)
  | .zero, _ => .bytes []

/-- Why a host operation has no result. -/
inductive SessionError where
  /-- R160: a read or write on a broken or closed transport, propagated unchanged. -/
  | transportFailure
  /-- R157: a receive without a timeout has not returned, since no byte has arrived. -/
  | stillWaiting
  /-- R151, R174: a payload longer than 8 bytes given to `send`. -/
  | callerPrecondition
  /-- The block stopped with a fault. No command raises one (R175). -/
  | blockFault (f : Fault)
  /-- The block refused the command. No command is refused. -/
  | blockRefused (r : Refusal)
  /-- The block gave no response. Every command gives one (R29). -/
  | noResponse
  deriving DecidableEq, Repr

/-- One write call on the transport: the bytes handed over, and the transport's answer. What a failed
call leaves at the transport, none of its bytes, some or all, the spec does not say, and the record
does not either (DESIGN CHOICE, log 12). -/
structure WriteCall where
  out : List Byte
  ok : Bool
  deriving DecidableEq, Repr

/-- The host's side of one session (R31), with what it has done to the world outside: the calls of
registered callbacks and the write calls on the transport, failed ones included, oldest first. A
callback is a name. No mark of a failed transport is kept: R160 says that RESET ends a failed session
and not what an operation before that RESET does, and here it runs as on any session (DESIGN CHOICE,
log 15). -/
structure Session where
  block : State
  /-- R156: the one registered error callback. -/
  sink : Option Nat
  /-- Bytes read from the transport and not yet taken by a PUSH: behind a frame found while retrying a
  `BUF_FULL` (log 8), or before a burst read that failed (log 13). -/
  backlog : List Byte
  calls : List (Nat × ErrorNotification)
  writes : List WriteCall
  deriving DecidableEq, Repr

/-- A session over a block in its power-on state, no callback registered (R32, R191). -/
def Session.fresh (c : Config) : Session :=
  { block := State.resetWith c, sink := none, backlog := [], calls := [], writes := [] }

/-- A host operation's end: the session after it, and its value or why there is none. -/
abbrev SessionResult (α : Type) := Session × Except SessionError α

/-- R156: each notification an operation of the block put on `err_out` goes to the sink registered at
that time; without one it is dropped. -/
def Session.deliver (s : Session) (es : List ErrorNotification) : Session :=
  match s.sink with
  | none => s
  | some k => { s with calls := s.calls ++ es.map fun e => (k, e) }

/-- One command issued to the block, its response read, and the notifications it emitted delivered
(R156). -/
def Session.command (i : Instr) (p : Port) (s : Session) : SessionResult Response :=
  match exec i s.block with
  | .fault f => (s, .error (.blockFault f))
  | .refused r => (s, .error (.blockRefused r))
  | .next t =>
    ({ s with block := t }.deliver (t.errOut.drop s.block.errOut.length),
      match (t.responsesAt p).getLast? with
      | some v => .ok v
      | none => .error .noResponse)

/-- One write call on the transport (R151, R152), whose answer is `ok`. The call is recorded whatever
the answer; a failure is propagated (R160), and what it leaves at the transport is left open
(DESIGN CHOICE, log 12). A call after a failed one is made as any other (DESIGN CHOICE, log 15). -/
def Session.write (s : Session) (out : List Byte) (ok : Bool) : SessionResult Unit :=
  ({ s with writes := s.writes ++ [{ out := out, ok := ok }] },
    if ok then .ok () else .error .transportFailure)

/-- A TX command and the one write of the bytes it emitted (R151, R152). -/
def Session.transmit (i : Instr) (ok : Bool) (s : Session) : SessionResult Unit :=
  match s.command i .tx with
  | (t, .error e) => (t, .error e)
  | (t, .ok v) =>
    if v.status = .ok then t.write (t.block.tx.drop s.block.tx.length) ok
    else (t, .error .callerPrecondition)

/-- The eight payload operand bytes of an ENCODE_DATA from a payload (R76): bytes behind it are
ignored, here zero. -/
def payloadOperand (payload : List Byte) : List Byte := (payload ++ List.replicate 8 0).take 8

/-- R151: `send(frame)`. A payload that no `dlc` operand can state, of 16 bytes or more, violates the
same precondition (R78, R174). -/
def Session.send (f : CanFrame) (ok : Bool) (s : Session) : SessionResult Unit :=
  if f.payload.length > DEC_MAX_DLC then (s, .error .callerPrecondition)
  else
    s.transmit (.encodeData .tx f.identifier (f.addressWidth == .extended)
      (BitVec.ofNat 4 f.payload.length) (payloadOperand f.payload)) ok

/-- R152: `configure(cmd)`. -/
def Session.configure (bitrate : Word32) (term silent erpt : Bool) (filterId filterMask : Word32)
    (ok : Bool) (s : Session) : SessionResult Unit :=
  s.transmit (.encodeConfig .tx bitrate term silent erpt filterId filterMask) ok

/-- R79, R153: RECEIVE, step (a) of `receive`: EXTRACT repeated until its unit is a data frame or its
discard is 0. `fuel` bounds the repetitions. -/
def Session.extractFrame : Nat → Session → SessionResult (Option CanFrame)
  | 0, s => (s, .ok none)
  | fuel + 1, s =>
    match s.command (.extract .rx) .rx with
    | (t, .error e) => (t, .error e)
    | (t, .ok v) =>
      match v.body with
      | .result r =>
        match r.unit with
        | .data f => (t, .ok (some f))
        | .none | .error _ | .decodeFailure _ =>
          if r.discard = 0 then (t, .ok none) else Session.extractFrame fuel t
      | .plain | .results _ => (t, .error .noResponse)

/-- Step (a) of `receive` (R153); each repetition but the last discards a byte (R131). -/
def Session.stepA (s : Session) : SessionResult (Option CanFrame) :=
  s.extractFrame (s.block.rxbuf.length + 1)

/-- The PUSHes of step (b) (R154): every byte once, in order (R159). A PUSH answered `BUF_FULL` is
retried after an EXTRACT handled as in step (a); a data frame that EXTRACT gives is the result, and
the bytes not yet taken wait in the backlog (log 8). `fuel` bounds the commands. -/
def Session.feed : Nat → List Byte → Session → SessionResult (Option CanFrame)
  | 0, bs, s => ({ s with backlog := bs }, .ok none)
  | _ + 1, [], s => ({ s with backlog := [] }, .ok none)
  | fuel + 1, b :: bs, s =>
    match s.command (.push .rx b) .rx with
    | (t, .error e) => ({ t with backlog := b :: bs }, .error e)
    | (t, .ok v) =>
      if v.status = .bufFull then
        match t.extractFrame 1 with
        | (u, .error e) => ({ u with backlog := b :: bs }, .error e)
        | (u, .ok (some f)) => ({ u with backlog := b :: bs }, .ok (some f))
        | (u, .ok none) => Session.feed fuel (b :: bs) u
      else Session.feed fuel bs t

/-- `feed` with enough fuel: each command takes a byte of the list or of the buffer away. -/
def Session.pushAll (bs : List Byte) (s : Session) : SessionResult (Option CanFrame) :=
  s.feed (2 * bs.length + s.block.rxbuf.length + 1) bs

/-- Goes on with `k` where no frame has been found yet. -/
def orElseFrame (r : SessionResult (Option CanFrame))
    (k : Session → SessionResult (Option CanFrame)) : SessionResult (Option CanFrame) :=
  match r with
  | (t, .ok none) => k t
  | (t, .ok (some f)) => (t, .ok (some f))
  | (t, .error e) => (t, .error e)

/-- R154: step (b) of `receive`, its two reads done: every byte PUSHed, then step (a) once more. -/
def Session.stepB (first burst : List Byte) (s : Session) : SessionResult (Option CanFrame) :=
  orElseFrame (s.pushAll (first ++ burst)) Session.stepA

/-- R153 to R155: `receive(timeout)`. `ticks` is what the transport brings to the blocking read, and
`burst` its answer to the read of what is immediately available, `none` for a failure; they are
looked at only where R154 reads. When the burst read fails, the bytes of the blocking read were read
and not PUSHed: the spec says nothing of them, and the model keeps them in the backlog (DESIGN
CHOICE, log 13). A receive after a failed read or write runs as any other (DESIGN CHOICE, log 15). -/
def Session.receive (timeout : Timeout) (ticks : List Arrival) (burst : Option (List Byte))
    (s : Session) : SessionResult (Option CanFrame) :=
  orElseFrame (s.pushAll s.backlog) fun s =>
    orElseFrame s.stepA fun s =>
      if timeout.isPoll then (s, .ok none)
      else
        match blockingRead timeout ticks, burst with
        | .waiting, _ => (s, .error .stillWaiting)
        | .failed, _ => (s, .error .transportFailure)
        | .bytes xs, none => ({ s with backlog := xs }, .error .transportFailure)
        | .bytes xs, some ys => s.stepB xs ys

/-- R156: `on_error(callback)`: the latest registration replaces the one before. -/
def Session.onError (k : Nat) (s : Session) : Session := { s with sink := some k }

/-- R159, R191: session open: RESET before the first PUSH, no callback registered. -/
def Session.openSession (s : Session) : SessionResult Response :=
  Session.command (.reset .rx) .rx { s with sink := none, backlog := [] }

/-- R159, R192: session teardown, and the end of a session that failed (R160): RESET. The host's
backlog ends with its session (log 8). -/
def Session.teardown (s : Session) : SessionResult Response :=
  Session.command (.reset .rx) .rx { s with backlog := [] }

end Sys2Proof.Machine
end

