-- ==== Sys2Proof/Safety.lean ====
section
/-!
DEFINITION. Sys2Proof/Safety.lean: the terms claims are stated in: what a well-formed result,
response and state are (the invariant of the block), runs of several commands, the agent a command
belongs to, and the relations the loops of DRAIN and of the host's receive compute.
-/

namespace Sys2Proof.Machine

/-! ### Runs -/

/-- Commands run one after the other, each one atomic (R8), stopping at the first that does not
answer a next state. -/
def runInstrs : List Instr → State → Result
  | [], s => .next s
  | i :: is, s =>
    match exec i s with
    | .next t => runInstrs is t
    | .fault f => .fault f
    | .refused r => .refused r

/-- R79: `PUSHN`. -/
def pushes (bs : List Byte) : List Instr := bs.map fun b => .push .rx b

/-- The agent whose port an instruction stands at (R9, R75); the wire rows are run by the RX
agent's extraction step. -/
def agentOf : Instr → Port
  | .reset p | .push p _ | .extract p | .drain p | .encodeData p _ _ _ _
  | .encodeConfig p _ _ _ _ _ _ | .reserved110 p | .reserved111 p => p
  | .wireDataStd _ _ | .wireDataExt _ _ | .wireError | .wireConfig | .wireUnknown _ => .rx

/-- R75, R77: whether an op is illegal at a port: reserved, or an op of the other agent's. -/
def illegalAt : Port → Nat → Bool
  | .rx, op => decide (4 ≤ op)
  | .tx, op => decide (op ≤ 3 ∨ 6 ≤ op)

/-! ### Well-formed results, responses and states -/

/-- R62: the total length of the data frame that carries a frame. -/
def CanFrame.wireLength (f : CanFrame) : Nat :=
  f.payload.length + 3 + idWidth (f.addressWidth == .extended)

/-- R25: what the decoder produces: 0..15 payload bytes, a standard identifier below 2^16. -/
def CanFrame.decoded (f : CanFrame) : Bool :=
  decide (f.payload.length ≤ DEC_MAX_DLC)
    && (f.addressWidth == .extended || decide (f.identifier.toNat < 2 ^ 16))

/-- R122, R131: the results an extraction step can have, by their unit: which reasons go with it and
what is discarded. -/
def ExtractResult.lawful (r : ExtractResult) : Bool :=
  match r.unit with
  | .data f => r.reason == .dataOk && r.discard == f.wireLength && f.decoded
  | .error _ => r.reason == .errOk && r.discard == ERROR_FRAME_LEN
  | .decodeFailure c =>
    r.reason == .errDecodeFailure && r.discard == ERROR_FRAME_LEN && decide (5 ≤ c.toNat)
  | .none =>
    match r.reason with
    | .waitNoMarker | .waitShort | .waitData => r.discard == 0
    | .noise => decide (1 ≤ r.discard)
    | .dataBadStop => decide (5 ≤ r.discard) && decide (r.discard ≤ MAX_FRAME_LEN)
    | .errBadStop => r.discard == ERROR_FRAME_LEN
    | .unknownType => r.discard == 2
    | .dataOk | .errOk | .errDecodeFailure => false

/-- R29, R171: the responses each port can return. -/
def Response.lawfulAt : Port → Response → Bool
  | .rx, v =>
    match v.status, v.body with
    | .ok, .plain | .bufFull, .plain | .badOp, .plain => true
    | .ok, .result r => r.lawful
    | .ok, .results rs => rs.all ExtractResult.lawful
    | _, _ => false
  | .tx, v =>
    match v.status, v.body with
    | .ok, .plain | .encLen, .plain | .badOp, .plain => true
    | _, _ => false

/-- The invariant of the block: a legal capacity (R6), a well-formed buffer within it (R20, R21), only
frames on `frame_out` that the decoder can produce (R25), and only responses that a port can return
(R29, R122, R131, R171). -/
def State.inv (s : State) : Bool :=
  s.config.legal && Memory.wf s.config s.rxbuf && s.frameOut.all CanFrame.decoded
    && s.rxResponses.all (Response.lawfulAt .rx) && s.txResponses.all (Response.lawfulAt .tx)

/-! ### DRAIN's loop as a relation (R132) -/

/-- `Drains m rs rest`: the loop of R132 from buffer `m` collects the results `rs` and leaves
`rest`. -/
inductive Drains : Memory → List ExtractResult → Memory → Prop where
  /-- The buffer is empty: no step. -/
  | empty : Drains [] [] []
  /-- A step that discards nothing ends the loop. -/
  | wait {m : Memory} {r : ExtractResult} (nonempty : m ≠ []) (step : tryExtractOne m = .ok r)
      (waits : r.discard = 0) : Drains m [r] m
  /-- A step that discards something is followed by the loop on the rest. -/
  | more {m rest : Memory} {r : ExtractResult} {rs : List ExtractResult} (nonempty : m ≠ [])
      (step : tryExtractOne m = .ok r) (discards : r.discard ≠ 0)
      (loop : Drains (m.drop r.discard) rs rest) : Drains m (r :: rs) rest

/-! ### The steps in front of a frame (R153) -/

/-- `Passes m rs rest`: extraction steps from buffer `m` with the results `rs`, each of which discards
something and gives no data frame, lead to `rest`: what the loop of R153 runs over before the step
that ends it. -/
inductive Passes : Memory → List ExtractResult → Memory → Prop where
  /-- No step. -/
  | done (m : Memory) : Passes m [] m
  /-- A step over noise, a corrupt unit or a notification, then the others. -/
  | step {m rest : Memory} {r : ExtractResult} {rs : List ExtractResult}
      (step : tryExtractOne m = .ok r) (discards : r.discard ≠ 0)
      (noFrame : ∀ f, r.unit ≠ .data f) (others : Passes (m.drop r.discard) rs rest) :
      Passes m (r :: rs) rest

/-- The calls a session makes of its registered callback for the notifications of some results, in
order; none without a callback (R156). -/
def Session.callsFor (s : Session) (rs : List ExtractResult) : List (Nat × ErrorNotification) :=
  match s.sink with
  | none => []
  | some k => rs.flatMap fun r =>
    match r.unit with
    | .error e => [(k, e)]
    | .none | .data _ | .decodeFailure _ => []

/-! ### What two runs are compared by -/

/-- The extraction results an RX response carries, in order (R29). -/
def Response.extractions (v : Response) : List ExtractResult :=
  match v.body with
  | .plain => []
  | .result r => [r]
  | .results rs => rs

/-- The non-waiting extraction results the RX port has returned, in order (R135). -/
def State.progress (s : State) : List ExtractResult :=
  (s.rxResponses.flatMap Response.extractions).filter fun r => !r.reason.isWait

/-- R135: the commands of a run over an inbound stream: PUSH, EXTRACT and DRAIN at the RX port. -/
def isStreamCommand : Instr → Bool
  | .push .rx _ | .extract .rx | .drain .rx => true
  | _ => false

/-- The bytes of the PUSH commands that were taken, in order: of commands run from power-on and the
responses the RX port has returned to them, one each, those PUSHes whose answer is `OK` (R121). -/
def takenBytes : List Instr → List Response → List Byte
  | .push .rx b :: is, v :: vs =>
    if v.status = .ok then b :: takenBytes is vs else takenBytes is vs
  | _ :: is, _ :: vs => takenBytes is vs
  | [], _ => []
  | _, [] => []

/-- The bytes a list of commands PUSHes, in order. -/
def pushedBytes (is : List Instr) : List Byte :=
  is.filterMap fun i => match i with
    | .push .rx b => some b
    | _ => none

end Sys2Proof.Machine
end

