-- ==== Sys2Proof/Certificates/Slice0/Obligations.lean ====
section
/-!
DEFINITION. Sys2Proof/Certificates/Slice0/Obligations.lean: the statements for the provers. Where a
statement gives a next state as an update of `s`, every field the update does not name is unchanged:
the equation is the instruction's result and its frame, and says that it completes.
-/

open Sys2Proof Sys2Proof.Machine

/-! ### Reset, step and the whole machine -/

/-- R32, R190: the power-on state. That `State.reset` takes the unbounded buffer is the reference
configuration of R7 (log 1). -/
def Obligations.ResetStateIsEmpty : Prop :=
  State.reset = State.resetWith { rxbufCap := none }
    ∧ ∀ c : Config, (State.resetWith c).rxbuf = [] ∧ (State.resetWith c).tx = []
      ∧ (State.resetWith c).frameOut = [] ∧ (State.resetWith c).errOut = []

/-- The invariant holds at power-on, whatever legal capacity the implementation fixes. -/
def Obligations.ResetStateIsWellFormed : Prop :=
  State.reset.inv = true ∧ ∀ c : Config, c.legal = true → (State.resetWith c).inv = true

/-- R20, R25, R29, R122, R131, R171: every step keeps the invariant: the buffer within its capacity,
only decodable frames on `frame_out`, only lawful responses at each port. -/
def Obligations.EveryStepKeepsTheInvariant : Prop :=
  ∀ s t : State, s.inv = true → step s = .next t → t.inv = true

/-- R41, R175: no step of the block faults or is refused, in any state at all. -/
def Obligations.EveryStepAnswersANextState : Prop :=
  ∀ s : State, ∃ t, step s = .next t

/-- R8, R49, R186: a step runs the oldest pending command, decoded, on the state with that command
taken; with none pending the block is idle, its state held. That the commands of both ports wait in
one list is the model's choice (log 3). -/
def Obligations.StepRunsTheOldestCommand : Prop :=
  (∀ (s : State) (p : Port) (r : Record) (rest : List Issue),
      s.pending = { port := p, record := r } :: rest →
        step s = exec (decodeRecord p r) { s with pending := rest })
    ∧ ∀ s : State, s.pending = [] → step s = .next s

/-- R9, R29, R75: whatever the instruction and the state, one response is returned, at the port of
the agent the instruction belongs to, and the parameter and the pending commands are unchanged. That
the state keeps the responses is the model's choice (log 2). -/
def Obligations.EveryInstructionAnswersOnce : Prop :=
  ∀ (i : Instr) (s : State), ∃ t v, exec i s = .next t
    ∧ (agentOf i = .rx → t.rxResponses = s.rxResponses ++ [v] ∧ t.txResponses = s.txResponses)
    ∧ (agentOf i = .tx → t.txResponses = s.txResponses ++ [v] ∧ t.rxResponses = s.rxResponses)
    ∧ t.config = s.config ∧ t.pending = s.pending

/-- R171, R175: a command answered with a status other than OK has changed no state and emitted
nothing. -/
def Obligations.NonOkStatusChangesNothing : Prop :=
  ∀ (i : Instr) (s t : State) (v : Response), exec i s = .next t →
    t.responsesAt (agentOf i) = s.responsesAt (agentOf i) ++ [v] → v.status ≠ .ok →
    t.rxbuf = s.rxbuf ∧ t.history = s.history

/-- R28, R32, R51: events already emitted are never retracted or reordered. -/
def Obligations.EventsAreOnlyAppended : Prop :=
  ∀ (i : Instr) (s t : State), exec i s = .next t → ∃ es, t.history = s.history ++ es

/-! ### The RX agent's commands -/

/-- R140: RESET, op 000 at the RX port. -/
def Obligations.ResetCommandEmptiesOnlyTheBuffer : Prop :=
  (∀ r : Record, r.op = 0 → decodeRecord .rx r = .reset .rx)
    ∧ ∀ s : State, exec (.reset .rx) s =
      .next { s with
        rxbuf := []
        rxResponses := s.rxResponses ++ [Response.plain .ok] }

/-- R120, with the two things rule R121 lets a PUSH into a full buffer do. -/
def Obligations.PushAppendsFlushesOrRefuses : Prop :=
  (∀ r : Record, r.op = 1 → ∃ data, decodeRecord .rx r = .push .rx data)
    ∧ ∀ (s : State) (data : Byte),
      (s.config.rxbufCap ≠ some s.rxbuf.length → exec (.push .rx data) s =
        .next { s with
          rxbuf := s.rxbuf ++ [data]
          rxResponses := s.rxResponses ++ [Response.plain .ok] })
      ∧ (s.config.rxbufCap = some s.rxbuf.length → START ∉ s.rxbuf → exec (.push .rx data) s =
        .next { s with
          rxbuf := [data]
          rxResponses := s.rxResponses ++ [Response.plain .ok] })
      ∧ (s.config.rxbufCap = some s.rxbuf.length → START ∈ s.rxbuf → exec (.push .rx data) s =
        .next { s with rxResponses := s.rxResponses ++ [Response.plain .bufFull] })

/-- R79, R120, R195: PUSHN into an unbounded buffer appends every byte in order and emits nothing. -/
def Obligations.PushnAppendsInOrder : Prop :=
  ∀ (bs : List Byte) (s : State), s.config.rxbufCap = none → runInstrs (pushes bs) s =
    .next { s with
      rxbuf := s.rxbuf ++ bs
      rxResponses := s.rxResponses ++ List.replicate bs.length (Response.plain .ok) }

/-- R129: EXTRACT, op 010 at the RX port, applies exactly one extraction step and returns its
result. -/
def Obligations.ExtractAppliesOneStep : Prop :=
  (∀ r : Record, r.op = 2 → decodeRecord .rx r = .extract .rx)
    ∧ ∀ s : State, ∃ r, tryExtractOne s.rxbuf = .ok r ∧ exec (.extract .rx) s =
      .next { s with
        rxbuf := s.rxbuf.drop r.discard
        history := s.history ++ route r.unit
        rxResponses := s.rxResponses ++ [{ status := .ok, body := .result r }] }

/-- R132: DRAIN, op 011 at the RX port, is the loop of the rule, run to its end. -/
def Obligations.DrainRunsTheLoopToItsEnd : Prop :=
  (∀ r : Record, r.op = 3 → decodeRecord .rx r = .drain .rx)
    ∧ ∀ s : State, ∃ rs rest, Drains s.rxbuf rs rest ∧ exec (.drain .rx) s =
      .next { s with
        rxbuf := rest
        history := s.history ++ rs.flatMap fun r => route r.unit
        rxResponses := s.rxResponses ++ [{ status := .ok, body := .results rs }] }

/-- R133, R132: DRAIN answers, with at most as many results as the buffer had bytes; every result but
the last discarded something, the last one waits unless the buffer ran empty, and the bytes
discarded are the bytes gone. -/
def Obligations.DrainTerminatesWithinTheLength : Prop :=
  ∀ s : State, ∃ t rs, exec (.drain .rx) s = .next t
    ∧ t.rxResponses = s.rxResponses ++ [{ status := .ok, body := .results rs }]
    ∧ rs.length ≤ s.rxbuf.length
    ∧ (∀ r ∈ rs.dropLast, 1 ≤ r.discard)
    ∧ (t.rxbuf = [] ∨ ∃ r, rs.getLast? = some r ∧ r.discard = 0 ∧ r.reason.isWait = true)
    ∧ t.rxbuf = s.rxbuf.drop (rs.map ExtractResult.discard).sum
    ∧ (rs.map ExtractResult.discard).sum + t.rxbuf.length = s.rxbuf.length

/-- R121: the byte a full buffer refuses is taken after one EXTRACT, which always makes room. -/
def Obligations.FullBufferMakesProgress : Prop :=
  ∀ (s : State) (data : Byte), s.inv = true → s.config.rxbufCap = some s.rxbuf.length →
    START ∈ s.rxbuf → ∃ t u, exec (.extract .rx) s = .next t ∧ t.rxbuf.length < s.rxbuf.length
      ∧ exec (.push .rx data) t = .next u ∧ u.rxbuf = t.rxbuf ++ [data]
      ∧ u.rxResponses = t.rxResponses ++ [Response.plain .ok]

/-! ### The extraction function -/

/-- R41: the checked reads of an extraction step never read beyond the buffer. -/
def Obligations.ExtractionReadsStayInTheBuffer : Prop :=
  ∀ m : Memory, ∃ r, tryExtractOne m = .ok r

/-- R124, R125: steps 1 and 2. The last clause says that a buffer with a marker in front and four
bytes passes both. -/
def Obligations.ResyncAndLengthGate : Prop :=
  (∀ m : Memory, START ∉ m →
      tryExtractOne m = .ok { discard := 0, unit := .none, reason := .waitNoMarker })
    ∧ (∀ noise rest : Memory, noise ≠ [] → START ∉ noise →
      tryExtractOne (noise ++ START :: rest) =
        .ok { discard := noise.length, unit := .none, reason := .noise })
    ∧ (∀ rest : Memory, rest.length < 3 →
      tryExtractOne (START :: rest) = .ok { discard := 0, unit := .none, reason := .waitShort })
    ∧ (∀ (rest : Memory) (r : ExtractResult), 3 ≤ rest.length →
      tryExtractOne (START :: rest) = .ok r →
        r.reason ≠ .waitNoMarker ∧ r.reason ≠ .noise ∧ r.reason ≠ .waitShort)
    ∧ tryExtractOne [0xAA, 0x7F, 0x11, 0x22] =
      .ok { discard := 2, unit := .none, reason := .unknownType }
    ∧ tryExtractOne [0xAA, 0xFF, 0x11, 0x22] =
      .ok { discard := 0, unit := .none, reason := .waitData }

/-- R126: step 3 on a data frame, its three outcomes. -/
def Obligations.DataFrameStep : Prop :=
  ∀ (h : Byte) (rest : Memory), 2 ≤ rest.length → h &&& 0xC0 = 0xC0 →
    let m := 0xAA :: h :: rest
    let dlc := (h &&& 0x0F).toNat
    let extended := h.getLsbD 5
    let width := if extended then 4 else 2
    let total := dlc + 3 + width
    (m.length < total →
        tryExtractOne m = .ok { discard := 0, unit := .none, reason := .waitData })
      ∧ (∀ last, m[total - 1]? = some last → last ≠ 0x55 →
        tryExtractOne m = .ok { discard := total, unit := .none, reason := .dataBadStop })
      ∧ (m[total - 1]? = some 0x55 → tryExtractOne m = .ok
        { discard := total
          unit := .data
            { identifier := BitVec.ofNat 32 (fromLE ((m.drop 2).take width))
              addressWidth := if extended then .extended else .standard
              payload := (m.drop (2 + width)).take dlc }
          reason := .dataOk })

/-- R127, R106: step 3 on an error frame. -/
def Obligations.ErrorFrameStep : Prop :=
  (∀ rest : Memory, rest.length < 2 → ∃ reason,
      tryExtractOne (0xAA :: 0x15 :: rest) = .ok { discard := 0, unit := .none, reason := reason })
    ∧ (∀ (code last : Byte) (rest : Memory), last ≠ 0x55 →
      tryExtractOne (0xAA :: 0x15 :: code :: last :: rest) =
        .ok { discard := 4, unit := .none, reason := .errBadStop })
    ∧ (∀ (e : ErrorNotification) (rest : Memory),
      tryExtractOne (0xAA :: 0x15 :: e.code :: 0x55 :: rest) =
        .ok { discard := 4, unit := .error e, reason := .errOk })
    ∧ ∀ (code : Byte) (rest : Memory), 5 ≤ code.toNat →
      tryExtractOne (0xAA :: 0x15 :: code :: 0x55 :: rest) =
        .ok { discard := 4, unit := .decodeFailure code, reason := .errDecodeFailure }

/-- R128: an unrecognized type byte: start and type are discarded, and the next step sees the byte
behind the type, whatever the type byte was. -/
def Obligations.UnknownTypeStep : Prop :=
  ∀ (h a b : Byte) (rest : Memory), h &&& 0xC0 ≠ 0xC0 → h ≠ 0x15 →
    tryExtractOne (0xAA :: h :: a :: b :: rest) =
        .ok { discard := 2, unit := .none, reason := .unknownType }
      ∧ ∀ s : State, s.rxbuf = 0xAA :: h :: a :: b :: rest → exec (.extract .rx) s =
        .next { s with
          rxbuf := a :: b :: rest
          rxResponses := s.rxResponses ++ [{
            status := .ok
            body := .result { discard := 2, unit := .none, reason := .unknownType } }] }

/-- R131: the bounds of one step. -/
def Obligations.ExtractionBounds : Prop :=
  ∀ (m : Memory) (r : ExtractResult), tryExtractOne m = .ok r →
    r.discard ≤ m.length
      ∧ (r.discard = 0 ↔
        r.reason = .waitNoMarker ∨ r.reason = .waitShort ∨ r.reason = .waitData)
      ∧ (r.discard = 0 → r.unit = .none)
      ∧ (∀ f, r.unit = .data f →
        r.discard = f.payload.length + 3 + (if f.addressWidth = .extended then 4 else 2))
      ∧ (∀ e, r.unit = .error e → r.discard = 4)
      ∧ ∀ c, r.unit = .decodeFailure c → r.discard = 4

/-- R134: prefix stability. -/
def Obligations.PrefixStability : Prop :=
  ∀ (m more : Memory) (r : ExtractResult), tryExtractOne m = .ok r → 0 < r.discard →
    tryExtractOne (m ++ more) = .ok r

/-- R130: what an extraction step puts on each output; nothing else reaches one. -/
def Obligations.RoutingKeepsTheOutputsApart : Prop :=
  ∀ (s : State) (r : ExtractResult), tryExtractOne s.rxbuf = .ok r →
    ∃ t, exec (.extract .rx) s = .next t ∧ t.tx = s.tx
      ∧ (∀ f, r.unit = .data f → t.frameOut = s.frameOut ++ [f] ∧ t.errOut = s.errOut)
      ∧ (∀ e, r.unit = .error e → t.frameOut = s.frameOut ∧ t.errOut = s.errOut ++ [e])
      ∧ (∀ c, r.unit = .decodeFailure c → t.frameOut = s.frameOut ∧ t.errOut = s.errOut)
      ∧ (r.unit = .none → t.frameOut = s.frameOut ∧ t.errOut = s.errOut)

/-- R46: an extraction step that waits changes nothing and can be repeated any number of times with
the same result. -/
def Obligations.WaitingExtractIsRepeatable : Prop :=
  ∀ (n : Nat) (s : State) (r : ExtractResult), tryExtractOne s.rxbuf = .ok r → r.discard = 0 →
    runInstrs (List.replicate n (.extract .rx)) s =
      .next { s with
        rxResponses := s.rxResponses
          ++ List.replicate n { status := .ok, body := .result r } }

/-- R71: header bit 4 is ignored by the decoder and written 0 by the encoder. -/
def Obligations.HeaderBit4IsIgnored : Prop :=
  (∀ (h : Byte) (rest : Memory), h &&& 0xC0 = 0xC0 →
      tryExtractOne (0xAA :: h :: rest) = tryExtractOne (0xAA :: (h ^^^ 0x10) :: rest))
    ∧ ∀ (ext : Bool) (dlc : BitVec 4), dlc.toNat ≤ 8 →
      (encodeHeader ext dlc).getLsbD 4 = false

/-- R22: the receive side keeps nothing but the buffer: two states with the same buffer and the same
parameter answer an RX command with the same buffer, the same response and the same events. -/
def Obligations.ScannerHasNoHiddenState : Prop :=
  ∀ (i : Instr) (s t : State), agentOf i = .rx → s.rxbuf = t.rxbuf → s.config = t.config →
    ∃ s' t' es v, exec i s = .next s' ∧ exec i t = .next t' ∧ s'.rxbuf = t'.rxbuf
      ∧ s'.history = s.history ++ es ∧ t'.history = t.history ++ es
      ∧ s'.rxResponses = s.rxResponses ++ [v] ∧ t'.rxResponses = t.rxResponses ++ [v]

/-- R21: after any instruction the buffer is the old one, with the pushed byte behind it if a PUSH
took one, less a prefix. -/
def Obligations.BufferIsARunOfTheStream : Prop :=
  ∀ (i : Instr) (s t : State), exec i s = .next t →
    t.rxbuf <:+ s.rxbuf ∨ t.rxbuf <:+ s.rxbuf ++ pushedBytes [i]

/-! ### Laws of the stream -/

/-- R135, unbounded buffer: a run of PUSH, EXTRACT and DRAIN commands that ends with a DRAIN gives
the non-waiting results, the events and the buffer that PUSHing all its bytes first and draining
once gives. -/
def Obligations.StreamDeterminism : Prop :=
  ∀ (is : List Instr) (s : State), s.config.rxbufCap = none → is.all isStreamCommand = true →
    ∃ t u, runInstrs (is ++ [.drain .rx]) s = .next t
      ∧ runInstrs (pushes (pushedBytes is) ++ [.drain .rx]) s = .next u
      ∧ t.rxbuf = u.rxbuf ∧ t.progress = u.progress ∧ t.history = u.history

/-- R121, R135, finite capacity: whatever the host does between PUSHes, and whichever PUSHes are
answered `BUF_FULL` and retried or not, the run emits the events the unbounded buffer emits for the
bytes that were taken. -/
def Obligations.FiniteCapacityKeepsTheEvents : Prop :=
  ∀ (is : List Instr) (c : Config), c.legal = true → is.all isStreamCommand = true →
    ∃ t u, runInstrs (is ++ [.drain .rx]) (State.resetWith c) = .next t
      ∧ runInstrs (pushes (takenBytes is t.rxResponses) ++ [.drain .rx]) State.reset = .next u
      ∧ t.frameOut = u.frameOut ∧ t.errOut = u.errOut

/-- R196: noise without a start marker stays in an unbounded buffer, and EXTRACT waits on it. -/
def Obligations.NoiseIsRetained : Prop :=
  ∀ (noise : List Byte) (s : State), s.config.rxbufCap = none → START ∉ s.rxbuf →
    START ∉ noise → ∃ t, runInstrs (pushes noise ++ [.extract .rx]) s = .next t
      ∧ t.rxbuf = s.rxbuf ++ noise ∧ t.history = s.history
      ∧ t.rxResponses.getLast? = some
        { status := .ok, body := .result { discard := 0, unit := .none, reason := .waitNoMarker } }

/-- R197: a stray 0xAA before a frame loses that frame, whatever the frame is, as long as no start
marker stands in it. -/
def Obligations.StrayStartLosesTheFrame : Prop :=
  ∀ (s : State) (a b : Byte) (body : List Byte), START ∉ a :: b :: body →
    s.rxbuf = 0xAA :: 0xAA :: a :: b :: body → exec (.drain .rx) s =
      .next { s with
        rxbuf := a :: b :: body
        rxResponses := s.rxResponses ++ [{
          status := .ok
          body := .results [{ discard := 2, unit := .none, reason := .unknownType },
            { discard := 0, unit := .none, reason := .waitNoMarker }] }] }

/-- R107: the bytes ENCODE_DATA emits, pushed into an empty buffer and extracted, give the frame
back, and nothing is left. -/
def Obligations.RoundTripThroughTheScanner : Prop :=
  ∀ (s : State) (id : Word32) (ext : Bool) (dlc : BitVec 4) (payload : List Byte),
    s.config.legal = true → s.rxbuf = [] → dlc.toNat ≤ 8 → payload.length = 8 →
    (ext = false → id.toNat < 2 ^ 16) →
    ∃ t out u, exec (.encodeData .tx id ext dlc payload) s = .next t ∧ t.tx = s.tx ++ out
      ∧ runInstrs (pushes out ++ [.extract .rx]) t = .next u ∧ u.rxbuf = []
      ∧ u.rxResponses.getLast? = some
        { status := .ok
          body := .result
            { discard := out.length
              unit := .data
                { identifier := id
                  addressWidth := if ext then .extended else .standard
                  payload := payload.take dlc.toNat }
              reason := .dataOk } }

/-! ### The TX agent's commands -/

/-- R100: ENCODE_DATA, op 100 at the TX port. -/
def Obligations.EncodeDataEmitsTheFrame : Prop :=
  (∀ r : Record, r.op = 4 → ∃ id ext dlc payload, payload.length = 8
      ∧ decodeRecord .tx r = .encodeData .tx id ext dlc payload)
    ∧ ∀ (s : State) (id : Word32) (ext : Bool) (dlc : BitVec 4) (payload : List Byte),
      (8 < dlc.toNat → exec (.encodeData .tx id ext dlc payload) s =
        .next { s with txResponses := s.txResponses ++ [Response.plain .encLen] })
      ∧ (dlc.toNat ≤ 8 → exec (.encodeData .tx id ext dlc payload) s =
        .next { s with
          history := s.history ++
            ([0xAA, BitVec.ofNat 8 (0xC0 + (if ext then 0x20 else 0) + dlc.toNat)]
              ++ leBytes (if ext then 4 else 2) id.toNat
              ++ payload.take dlc.toNat ++ [0x55]).map Event.tx
          txResponses := s.txResponses ++ [Response.plain .ok] })

/-- R101: the fields of the header byte on `tx`. -/
def Obligations.EncodedHeaderByte : Prop :=
  ∀ (s : State) (id : Word32) (ext : Bool) (dlc : BitVec 4) (payload : List Byte),
    dlc.toNat ≤ 8 → ∃ t h, exec (.encodeData .tx id ext dlc payload) s = .next t
      ∧ (t.tx.drop s.tx.length)[1]? = some h
      ∧ h.extractLsb' 6 2 = 3 ∧ h.getLsbD 5 = ext ∧ h.getLsbD 4 = false
      ∧ h.extractLsb' 0 4 = dlc
      ∧ (ext = false → 0xC0 ≤ h.toNat ∧ h.toNat ≤ 0xC8)
      ∧ (ext = true → 0xE0 ≤ h.toNat ∧ h.toNat ≤ 0xE8)

/-- R102: the identifier on `tx` is the operand modulo the width of its wire field. -/
def Obligations.EncodedIdentifierIsTruncated : Prop :=
  ∀ (s : State) (id : Word32) (ext : Bool) (dlc : BitVec 4) (payload : List Byte),
    dlc.toNat ≤ 8 → ∃ t, exec (.encodeData .tx id ext dlc payload) s = .next t
      ∧ fromLE (((t.tx.drop s.tx.length).drop 2).take (if ext then 4 else 2)) =
        if ext then id.toNat else id.toNat % 2 ^ 16

/-- R103, R104: ENCODE_CONFIG, op 101 at the TX port. -/
def Obligations.EncodeConfigEmitsSixteenBytes : Prop :=
  (∀ r : Record, r.op = 5 → ∃ bitrate term silent erpt filterId filterMask,
      decodeRecord .tx r = .encodeConfig .tx bitrate term silent erpt filterId filterMask)
    ∧ ∀ (s : State) (bitrate : Word32) (term silent erpt : Bool) (filterId filterMask : Word32),
      let flags := term.toNat + 2 * silent.toNat + 4 * erpt.toNat
      let out := [0xAA, 0x13, BitVec.ofNat 8 flags] ++ leBytes 4 bitrate.toNat
        ++ leBytes 4 filterId.toNat ++ leBytes 4 filterMask.toNat ++ [0x55]
      out.length = 16 ∧ flags ≤ 7
        ∧ exec (.encodeConfig .tx bitrate term silent erpt filterId filterMask) s =
          .next { s with
            history := s.history ++ out.map Event.tx
            txResponses := s.txResponses ++ [Response.plain .ok] }

/-- R9, R24: the transmit agent has no state: what a TX command emits and answers does not depend on
the state it is run in, it emits on `tx` alone, and it leaves the receive side alone. -/
def Obligations.TransmitAgentIsStateless : Prop :=
  ∀ i : Instr, agentOf i = .tx → ∃ (out : List Byte) (v : Response), ∀ s : State, exec i s =
    .next { s with
      history := s.history ++ out.map Event.tx
      txResponses := s.txResponses ++ [v] }

/-- R9: an RX command puts nothing on `tx` and answers nothing at the TX port. -/
def Obligations.ReceiveAgentLeavesTheTransmitSide : Prop :=
  ∀ (i : Instr) (s t : State), agentOf i = .rx → exec i s = .next t →
    t.tx = s.tx ∧ t.txResponses = s.txResponses

/-- R50: any interleaving of the two agents' commands gives the same buffer, outputs and responses:
two sequences with the same RX commands in order and the same TX commands in order agree. -/
def Obligations.InterleavingIsUnobservable : Prop :=
  ∀ (is js : List Instr) (s : State),
    is.filter (fun i => agentOf i = .rx) = js.filter (fun i => agentOf i = .rx) →
    is.filter (fun i => agentOf i = .tx) = js.filter (fun i => agentOf i = .tx) →
    ∃ t u, runInstrs is s = .next t ∧ runInstrs js s = .next u ∧ t.rxbuf = u.rxbuf
      ∧ t.tx = u.tx ∧ t.frameOut = u.frameOut ∧ t.errOut = u.errOut
      ∧ t.rxResponses = u.rxResponses ∧ t.txResponses = u.txResponses

/-! ### Illegal commands -/

/-- R77, R179: a record whose op is reserved or the other agent's answers BAD_OP, whatever its
operands. -/
def Obligations.IllegalOpsAnswerBadOp : Prop :=
  ∀ (p : Port) (r : Record) (s : State), illegalAt p r.op.toNat = true →
    exec (decodeRecord p r) s = .next (s.respond p (Response.plain .badOp))

/-- R77: the reserved ops at either port, and every other command at the port of the other agent. -/
def Obligations.ReservedAndMisplacedCommands : Prop :=
  ∀ (s : State) (id bitrate filterId filterMask : Word32) (data : Byte)
    (ext term silent erpt : Bool) (dlc : BitVec 4) (payload : List Byte),
    let badRx : State := { s with rxResponses := s.rxResponses ++ [Response.plain .badOp] }
    let badTx : State := { s with txResponses := s.txResponses ++ [Response.plain .badOp] }
    exec (.reserved110 .rx) s = .next badRx ∧ exec (.reserved110 .tx) s = .next badTx
      ∧ exec (.reserved111 .rx) s = .next badRx ∧ exec (.reserved111 .tx) s = .next badTx
      ∧ exec (.reset .tx) s = .next badTx ∧ exec (.push .tx data) s = .next badTx
      ∧ exec (.extract .tx) s = .next badTx ∧ exec (.drain .tx) s = .next badTx
      ∧ exec (.encodeData .rx id ext dlc payload) s = .next badRx
      ∧ exec (.encodeConfig .rx bitrate term silent erpt filterId filterMask) s = .next badRx

/-! ### The wire rows -/

/-- R69: the classes of the 256 type bytes, as the parser's tests and as the table's rows; 0x13 is
unrecognized inbound and has the row WIRE_CONFIG. -/
def Obligations.TypeByteClasses : Prop :=
  (∀ h : Byte,
      (classify h = .data ↔ 0xC0 ≤ h.toNat) ∧ (classify h = .error ↔ h = 0x15)
      ∧ (0xC0 ≤ h.toNat ∧ h.toNat ≤ 0xDF →
        decodeType h = .wireDataStd (h.getLsbD 4) (h.extractLsb' 0 4))
      ∧ (0xE0 ≤ h.toNat → decodeType h = .wireDataExt (h.getLsbD 4) (h.extractLsb' 0 4))
      ∧ (h = 0x15 → decodeType h = .wireError) ∧ (h = 0x13 → decodeType h = .wireConfig)
      ∧ (h.toNat < 0xC0 ∧ h ≠ 0x15 ∧ h ≠ 0x13 → decodeType h = .wireUnknown h))
    ∧ ((List.range 256).filter fun n =>
        classify (BitVec.ofNat 8 n) = .unrecognized).length = 191

/-- R123, R129: EXTRACT on a buffer that passes steps 1 and 2 is the wire row its type byte decodes
to. That a wire row is an instruction of its own is the model's choice (log 7). -/
def Obligations.ExtractRunsTheFetchedWireRow : Prop :=
  ∀ (s : State) (h a b : Byte) (rest : Memory), s.rxbuf = 0xAA :: h :: a :: b :: rest →
    exec (.extract .rx) s = exec (decodeType h) s

/-- R124, R125: every wire row passes steps 1 and 2 before its branch of step 3 (the model's choice,
log 7). -/
def Obligations.WireRowsPassTheGateFirst : Prop :=
  ∀ (h : Byte) (s : State),
    (START ∉ s.rxbuf → exec (decodeType h) s =
      .next { s with
        rxResponses := s.rxResponses ++ [{
          status := .ok
          body := .result { discard := 0, unit := .none, reason := .waitNoMarker } }] })
    ∧ (∀ noise rest : Memory, noise ≠ [] → START ∉ noise → s.rxbuf = noise ++ START :: rest →
      exec (decodeType h) s =
        .next { s with
          rxbuf := START :: rest
          rxResponses := s.rxResponses ++ [{
            status := .ok
            body := .result { discard := noise.length, unit := .none, reason := .noise } }] })
    ∧ (∀ rest : Memory, rest.length < 3 → s.rxbuf = START :: rest → exec (decodeType h) s =
      .next { s with
        rxResponses := s.rxResponses ++ [{
          status := .ok
          body := .result { discard := 0, unit := .none, reason := .waitShort } }] })

/-- R126: WIRE_DATA_STD and WIRE_DATA_EXT on a buffer that passes steps 1 and 2: waiting for the rest,
discarding a frame without its stop marker, decoding a frame. Header bit 4 changes nothing. That the
row's own header is taken for the byte at offset 1 is the model's choice (log 7). -/
def Obligations.WireDataRowsDecode : Prop :=
  ∀ (ext bit4 : Bool) (dlc : BitVec 4) (s : State) (x : Byte) (rest : Memory),
    2 ≤ rest.length → s.rxbuf = 0xAA :: x :: rest →
    let i := if ext then Instr.wireDataExt bit4 dlc else Instr.wireDataStd bit4 dlc
    let width := if ext then 4 else 2
    let total := dlc.toNat + 3 + width
    (s.rxbuf.length < total → exec i s =
        .next { s with
          rxResponses := s.rxResponses ++ [{
            status := .ok
            body := .result { discard := 0, unit := .none, reason := .waitData } }] })
      ∧ (∀ last, s.rxbuf[total - 1]? = some last → last ≠ 0x55 → exec i s =
        .next { s with
          rxbuf := s.rxbuf.drop total
          rxResponses := s.rxResponses ++ [{
            status := .ok
            body := .result { discard := total, unit := .none, reason := .dataBadStop } }] })
      ∧ (s.rxbuf[total - 1]? = some 0x55 →
        let f : CanFrame :=
          { identifier := BitVec.ofNat 32 (fromLE ((s.rxbuf.drop 2).take width))
            addressWidth := if ext then .extended else .standard
            payload := (s.rxbuf.drop (2 + width)).take dlc.toNat }
        exec i s = .next { s with
          rxbuf := s.rxbuf.drop total
          history := s.history ++ [.frameOut f]
          rxResponses := s.rxResponses ++ [{
            status := .ok
            body := .result { discard := total, unit := .data f, reason := .dataOk } }] })

/-- R127, R68: WIRE_ERROR on a buffer of at least four bytes with a marker in front (log 7). -/
def Obligations.WireErrorRowDecodes : Prop :=
  ∀ (s : State) (x code last : Byte) (rest : Memory),
    s.rxbuf = 0xAA :: x :: code :: last :: rest →
    let answer (r : ExtractResult) (es : List Event) : Result := .next { s with
      rxbuf := rest
      history := s.history ++ es
      rxResponses := s.rxResponses ++ [{ status := .ok, body := .result r }] }
    (last ≠ 0x55 →
        exec .wireError s = answer { discard := 4, unit := .none, reason := .errBadStop } [])
      ∧ (∀ e : ErrorNotification, last = 0x55 → code = e.code → exec .wireError s =
        answer { discard := 4, unit := .error e, reason := .errOk } [.errOut e])
      ∧ (last = 0x55 → 5 ≤ code.toNat → exec .wireError s =
        answer { discard := 4, unit := .decodeFailure code, reason := .errDecodeFailure } [])

/-- R108, R128: WIRE_CONFIG and WIRE_UNKNOWN inbound discard the start marker and the type byte, and
nothing else (log 7). -/
def Obligations.UnrecognizedRowsDiscardTwo : Prop :=
  ∀ (s : State) (x h a b : Byte) (rest : Memory), s.rxbuf = 0xAA :: x :: a :: b :: rest →
    let answer : Result := .next { s with
      rxbuf := a :: b :: rest
      rxResponses := s.rxResponses ++ [{
        status := .ok
        body := .result { discard := 2, unit := .none, reason := .unknownType } }] }
    exec .wireConfig s = answer ∧ exec (.wireUnknown h) s = answer

/-- R108: the frame ENCODE_CONFIG emits, met inbound, is an unrecognized type: nothing is emitted,
and only its first two bytes go. -/
def Obligations.ConfigurationFrameIsUnrecognized : Prop :=
  ∀ (s s' t : State) (bitrate : Word32) (term silent erpt : Bool) (filterId filterMask : Word32)
    (out rest : List Byte),
    exec (.encodeConfig .tx bitrate term silent erpt filterId filterMask) s = .next s' →
    s'.tx = s.tx ++ out → t.rxbuf = out ++ rest → exec (.extract .rx) t =
      .next { t with
        rxbuf := out.drop 2 ++ rest
        rxResponses := t.rxResponses ++ [{
          status := .ok
          body := .result { discard := 2, unit := .none, reason := .unknownType } }] }

/-- R63, R66, R101: the type byte of every emitted frame is that of its wire row, bit 4 zero. -/
def Obligations.EmittedTypeBytesDecodeToTheirRows : Prop :=
  (∀ (s : State) (id : Word32) (ext : Bool) (dlc : BitVec 4) (payload : List Byte),
      dlc.toNat ≤ 8 → ∃ t h, exec (.encodeData .tx id ext dlc payload) s = .next t
        ∧ (t.tx.drop s.tx.length)[1]? = some h
        ∧ decodeType h = if ext then .wireDataExt false dlc else .wireDataStd false dlc)
    ∧ ∀ (s : State) (bitrate : Word32) (term silent erpt : Bool) (filterId filterMask : Word32),
      ∃ t h, exec (.encodeConfig .tx bitrate term silent erpt filterId filterMask) s = .next t
        ∧ (t.tx.drop s.tx.length)[1]? = some h ∧ decodeType h = .wireConfig

/-- R68, R106: the closed set of error codes. -/
def Obligations.ErrorCodesDecode : Prop :=
  decodeError 0x00 = .error .unknown ∧ decodeError 0x01 = .error .busOvercurrent
    ∧ decodeError 0x02 = .error .busOvervoltage ∧ decodeError 0x03 = .error .busTransmitFailure
    ∧ decodeError 0x04 = .error .transmitBufferFull
    ∧ ∀ code : Byte, 5 ≤ code.toNat → decodeError code = .decodeFailure code

/-! ### Encodings -/

/-- Decoding the encoding of a well-formed instruction gives it back, with every operand. The bit
places of the operand fields are the model's (log 5). -/
def Obligations.DecodeOfEncodeIsTheInstruction : Prop :=
  ∀ i : Instr, i.wf = true → decode (encode i).1 (encode i).2 = .ok i

/-- R69: each type byte has one row, and the row's encoding is the byte. -/
def Obligations.TypeByteRoundTrip : Prop :=
  ∀ h : Byte, encodeType (decodeType h) = some h

/-- What the decoder answers is well-formed. -/
def Obligations.DecoderAnswersWellFormed : Prop :=
  ∀ (src : Source) (bs : List Byte) (i : Instr), decode src bs = .ok i → i.wf = true

/-- Words written out from the spec's encodings (R69, R75) decode to what they stand for. Which words
are commands and which are type bytes is the model's choice (log 6). -/
def Obligations.WordsOfTheTableDecode : Prop :=
  decodeTableWord 8 0 = some (.reset .rx) ∧ decodeTableWord 8 1 = some (.push .rx 0)
    ∧ decodeTableWord 8 2 = some (.extract .rx) ∧ decodeTableWord 8 3 = some (.drain .rx)
    ∧ decodeTableWord 8 6 = some (.reserved110 .rx)
    ∧ decodeTableWord 8 7 = some (.reserved111 .rx)
    ∧ decodeTableWord 8 0xC3 = some (.wireDataStd false 3)
    ∧ decodeTableWord 8 0xFF = some (.wireDataExt true 15)
    ∧ decodeTableWord 8 0x15 = some .wireError ∧ decodeTableWord 8 0x13 = some .wireConfig
    ∧ decodeTableWord 8 0x7F = some (.wireUnknown 0x7F)

/-! ### The host session (spec/42_host_session.md)

Each of these speaks of every session, one whose transport has failed and that no RESET has ended
included: that a host operation runs there as on any session is the model's choice (log 15). -/

/-- R153, R156: a data frame already buffered is returned with no read, whatever the timeout and the
transport: what stands in front of it, noise, corrupt units and notifications, is extracted first,
and the notifications are handed to the callback in order; the bytes behind the frame stay. The
backlog is the model's (log 8).
Sessions with a failed transport are included (log 15). -/
def Obligations.ReceiveReturnsTheBufferedFrame : Prop :=
  ∀ (s : Session) (timeout : Timeout) (ticks : List Arrival) (burst : Option (List Byte))
    (rs : List ExtractResult) (m : Memory) (r : ExtractResult) (f : CanFrame),
    s.backlog = [] → Passes s.block.rxbuf rs m → tryExtractOne m = .ok r → r.unit = .data f →
    ∃ t, s.receive timeout ticks burst = (t, .ok (some f))
      ∧ t.block.rxbuf = m.drop r.discard ∧ t.backlog = []
      ∧ t.calls = s.calls ++ s.callsFor rs ∧ t.writes = s.writes ∧ t.sink = s.sink
      ∧ t.block.frameOut = s.block.frameOut ++ [f]

/-- R154, R155, R156, unbounded buffer: step (b) where step (a) gave no frame: the bytes of the blocking
read and of the burst are appended in order, and the extraction goes on over them: to a frame, which
is returned, or to a step that waits, and then nothing is returned and that is no error. The backlog
is the model's (log 8).
Sessions with a failed transport are included (log 15). -/
def Obligations.ReceivePushesOneBurst : Prop :=
  ∀ (s : Session) (timeout : Timeout) (ticks : List Arrival) (xs ys : List Byte)
    (rs rs' : List ExtractResult) (m m' : Memory) (w r : ExtractResult),
    s.backlog = [] → s.block.config.rxbufCap = none →
    Passes s.block.rxbuf rs m → tryExtractOne m = .ok w → w.discard = 0 →
    timeout.isPoll = false → blockingRead timeout ticks = .bytes xs →
    Passes (m ++ xs ++ ys) rs' m' → tryExtractOne m' = .ok r →
    (∀ f, r.unit = .data f → ∃ t, s.receive timeout ticks (some ys) = (t, .ok (some f))
        ∧ t.block.rxbuf = m'.drop r.discard ∧ t.calls = s.calls ++ s.callsFor (rs ++ rs')
        ∧ t.backlog = [] ∧ t.block.frameOut = s.block.frameOut ++ [f])
      ∧ (r.discard = 0 → ∃ t, s.receive timeout ticks (some ys) = (t, .ok none)
        ∧ t.block.rxbuf = m' ∧ t.calls = s.calls ++ s.callsFor (rs ++ rs')
        ∧ t.backlog = [] ∧ t.block.frameOut = s.block.frameOut)

/-- R157, R160: where step (a) gives no frame, a receive without a timeout waits through any silence
until a byte arrives, and has not returned while none has; a duration waits as long as it says and no
longer; a failure of the blocking read that comes within the wait, and a failure of the burst read,
are propagated, with the buffer as step (a) left it. That waiting is counted in ticks is the model's
choice (log 14), that the bytes of the blocking read are not PUSHed when the burst read fails is too
(log 13), and so is the backlog (log 8).
Sessions with a failed transport are included (log 15). -/
def Obligations.ReceiveWaitsAsItsTimeoutSays : Prop :=
  ∀ (s : Session) (n : Nat) (b : Byte) (bs : List Byte) (later : List Arrival)
    (burst : Option (List Byte)) (rs : List ExtractResult) (m : Memory) (w : ExtractResult),
    s.backlog = [] → Passes s.block.rxbuf rs m → tryExtractOne m = .ok w → w.discard = 0 →
    let silence : List Arrival := List.replicate n (some [])
    s.receive .none (silence ++ some (b :: bs) :: later) burst
        = s.receive .none [some (b :: bs)] burst
      ∧ (∀ d, n < d → s.receive (.duration d) (silence ++ some (b :: bs) :: later) burst
        = s.receive .none [some (b :: bs)] burst)
      ∧ (∀ d, d ≤ n → s.receive (.duration d) (silence ++ some (b :: bs) :: later) burst
        = s.receive (.duration d) [] burst)
      ∧ (s.receive .none silence burst).2 = .error .stillWaiting
      ∧ (s.receive .none (silence ++ none :: later) burst).2 = .error .transportFailure
      ∧ (s.receive .none (silence ++ none :: later) burst).1.block.rxbuf = m
      ∧ (∀ d, n < d →
        (s.receive (.duration d) (silence ++ none :: later) burst).2 = .error .transportFailure
          ∧ (s.receive (.duration d) (silence ++ none :: later) burst).1.block.rxbuf = m)
      ∧ (∀ d, d ≤ n → s.receive (.duration d) (silence ++ none :: later) burst
        = s.receive (.duration d) [] burst)
      ∧ (s.receive .none [some (b :: bs)] none).2 = .error .transportFailure
      ∧ (s.receive .none [some (b :: bs)] none).1.block.rxbuf = m
      ∧ (∀ d, 0 < d → (s.receive (.duration d) [] none).2 = .error .transportFailure
        ∧ (s.receive (.duration d) [] none).1.block.rxbuf = m)

/-- R155: a poll with nothing buffered returns nothing, and that is no error.
Sessions with a failed transport are included (log 15). -/
def Obligations.PollOfAnEmptyBufferReturnsNothing : Prop :=
  ∀ (s : Session) (ticks : List Arrival) (burst : Option (List Byte)),
    s.backlog = [] → s.block.rxbuf = [] →
    (s.receive .zero ticks burst).2 = .ok none
      ∧ (s.receive .zero ticks burst).1.block.rxbuf = []
      ∧ (s.receive .zero ticks burst).1.calls = s.calls

/-- R151: `send` makes exactly one write call, of the encoded frame, and propagates its failure; a
payload longer than 8 bytes is a violated precondition, and nothing is written. What a failed call
leaves at the transport is not said (log 12).
Sessions with a failed transport are included (log 15). -/
def Obligations.SendWritesOneFrame : Prop :=
  ∀ (s : Session) (f : CanFrame) (ok : Bool),
    (f.payload.length ≤ 8 →
        (s.send f ok).2 = (if ok then .ok () else .error .transportFailure)
        ∧ (s.send f ok).1.writes = s.writes ++ [{
          ok := ok
          out := [0xAA, BitVec.ofNat 8 (0xC0
              + (if f.addressWidth = .extended then 0x20 else 0) + f.payload.length)]
            ++ leBytes (if f.addressWidth = .extended then 4 else 2) f.identifier.toNat
            ++ f.payload ++ [0x55] }])
      ∧ (8 < f.payload.length → (s.send f ok).2 = .error .callerPrecondition
        ∧ (s.send f ok).1.writes = s.writes)

/-- R156: a notification goes to the one registered callback, exactly once; with none registered it
is dropped; a latest registration replaces the one before.
Sessions with a failed transport are included (log 15). -/
def Obligations.NotificationsReachTheRegisteredSink : Prop :=
  ∀ (s : Session) (r : ExtractResult) (e : ErrorNotification) (k k' : Nat),
    tryExtractOne s.block.rxbuf = .ok r → r.unit = .error e →
    (((s.onError k').onError k).command (.extract .rx) .rx).1.calls = s.calls ++ [(k, e)]
      ∧ (s.sink = none → (s.command (.extract .rx) .rx).1.calls = s.calls)
end

