-- ==== Sys2Proof/Laws/Decode.lean ====
section
/-!
SUPPORT. Sys2Proof/Laws/Decode.lean: byte order there and back, and the op field of every encoded
command.
-/

namespace Sys2Proof

theorem leBytes_length (n v : Nat) : (leBytes n v).length = n := by
  induction n generalizing v with
  | zero => rfl
  | succ n ih => simp [leBytes, ih]

/-- Reading back `n` little-endian bytes gives the number, modulo what `n` bytes hold (R12). -/
theorem fromLE_leBytes (n v : Nat) : fromLE (leBytes n v) = v % 256 ^ n := by
  induction n generalizing v with
  | zero => simp [leBytes, fromLE, Nat.mod_one]
  | succ n ih =>
    have hb : (BitVec.ofNat 8 v).toNat = v % 256 := by simp
    rw [leBytes, fromLE, ih, hb, Nat.pow_succ, Nat.mul_comm (256 ^ n) 256, Nat.mod_mul]

theorem fromLE_lt (bs : List Byte) : fromLE bs < 256 ^ bs.length := by
  induction bs with
  | nil => simp [fromLE]
  | cons b bs ih =>
    have := b.isLt
    simp only [fromLE, List.length_cons, pow_succ]
    omega

/-- The bytes of a record stand for the record. -/
theorem recordOfBytes_bytesOfRecord (r : Record) : recordOfBytes (bytesOfRecord r) = r := by
  simp only [recordOfBytes, bytesOfRecord, fromLE_leBytes, RECORD_BYTES]
  apply BitVec.eq_of_toNat_eq
  have := r.isLt
  simp only [BitVec.toNat_ofNat]
  omega

theorem op_toNat (r : Record) : r.op.toNat = r.toNat % 8 := by
  simp [Record.op, BitVec.extractLsb'_toNat]

/-- A record of an op alone has that op. -/
theorem opOnly_op (op : BitVec 3) : (opOnly op).op = op := by
  apply BitVec.eq_of_toNat_eq
  have := op.isLt
  rw [op_toNat, opOnly, BitVec.toNat_setWidth]
  omega

/-- Operand fields above an op leave the op in its place. -/
theorem op_append {n : Nat} (x : BitVec n) (op : BitVec 3) :
    Record.op ((x ++ op).setWidth 104) = op := by
  ext i hi
  simp [Record.op, BitVec.getLsbD_append, hi, show i < 104 by omega]

/-- The first byte of a record holds its op in bits 2:0 (spec/opcode_table.json). -/
theorem firstByte_op (r : Record) :
    (bytesOfRecord r).head? = some (BitVec.ofNat 8 r.toNat)
      ∧ BitVec.ofNat 8 r.toNat &&& 7 = r.op.setWidth 8 := by
  refine ⟨rfl, ?_⟩
  apply BitVec.eq_of_toNat_eq
  have h7 : (7 : Byte).toNat = 2 ^ 3 - 1 := by decide
  rw [BitVec.toNat_and, h7, Nat.and_two_pow_sub_one_eq_mod, BitVec.toNat_ofNat,
    BitVec.toNat_setWidth, op_toNat]
  omega

/-! ### The payload operand (R76) -/

/-- A list of bytes is the little-endian form of its number. -/
theorem leBytes_fromLE (bs : List Byte) : leBytes bs.length (fromLE bs) = bs := by
  induction bs with
  | nil => rfl
  | cons b bs ih =>
    have := b.isLt
    have h1 : (b.toNat + 256 * fromLE bs) / 256 = fromLE bs := by omega
    have h2 : BitVec.ofNat 8 (b.toNat + 256 * fromLE bs) = b := by
      apply BitVec.eq_of_toNat_eq
      rw [BitVec.toNat_ofNat]
      omega
    rw [List.length_cons, leBytes, fromLE, h1, h2, ih]

/-- A byte of a 64-bit operand. -/
theorem extract_ofNat {k : Nat} (v : Nat) (h : k + 8 ≤ 64) :
    (BitVec.ofNat 64 v).extractLsb' k 8 = BitVec.ofNat 8 (v / 2 ^ k) := by
  apply BitVec.eq_of_toNat_eq
  rw [BitVec.extractLsb'_toNat, BitVec.toNat_ofNat, BitVec.toNat_ofNat,
    Nat.shiftRight_eq_div_pow]
  apply Nat.eq_of_testBit_eq
  intro i
  simp only [Nat.testBit_mod_two_pow, Nat.testBit_div_two_pow]
  by_cases hi : i < 8
  · simp [hi, show i + k < 64 by omega]
  · simp [hi]

/-- The payload field stands above the fields of 40 bits below it (R76). -/
theorem payload_append (x : BitVec 64) (dlc : BitVec 4) (e : BitVec 1) (id : Word32)
    (op : BitVec 3) :
    Record.payload (x ++ dlc ++ e ++ id ++ op) =
      [x.extractLsb' 0 8, x.extractLsb' 8 8, x.extractLsb' 16 8, x.extractLsb' 24 8,
       x.extractLsb' 32 8, x.extractLsb' 40 8, x.extractLsb' 48 8, x.extractLsb' 56 8] := by
  simp only [Record.payload, BitVec.extractLsb'_append_eq_of_le, Nat.reduceLeDiff, Nat.reduceSub]

/-- The payload field of a packed record is the operand's eight bytes. -/
theorem payload_pack {bs : List Byte} (h : bs.length = 8) (dlc : BitVec 4) (e : BitVec 1)
    (id : Word32) (op : BitVec 3) :
    Record.payload (BitVec.ofNat 64 (fromLE bs) ++ dlc ++ e ++ id ++ op) = bs := by
  have hb := leBytes_fromLE bs
  rw [h] at hb
  rw [payload_append]
  conv_rhs => rw [← hb]
  rw [extract_ofNat _ (by decide), extract_ofNat _ (by decide), extract_ofNat _ (by decide),
    extract_ofNat _ (by decide), extract_ofNat _ (by decide), extract_ofNat _ (by decide),
    extract_ofNat _ (by decide), extract_ofNat _ (by decide)]
  simp only [leBytes, Nat.div_div_eq_div_mul, Nat.reduceMul, Nat.reducePow, Nat.div_one]

end Sys2Proof
end

