-- ==== Sys2Proof/Laws/Memory.lean ====
section
/-!
SUPPORT. Sys2Proof/Laws/Memory.lean: what the memory operations do: reads after Append and Discard,
when a checked read answers, and that every memory operation keeps the well-formed form.
-/

namespace Sys2Proof.Machine

/-! ### Reads -/

theorem memRead_of_lt {m : Memory} {i : Nat} (h : i < m.length) : memRead m i = .ok m[i] := by
  simp [memRead, h]

theorem memRead_of_getElem? {m : Memory} {i : Nat} {b : Byte} (h : m[i]? = some b) :
    memRead m i = .ok b := by
  simp [memRead, h]

theorem memReadN_of_le {m : Memory} {i n : Nat} (h : i + n ≤ m.length) :
    memReadN m i n = .ok ((m.drop i).take n) := by
  simp [memReadN, h]

/-- Append puts its byte at the back (R20, R21). -/
theorem memRead_append_back (m : Memory) (b : Byte) : memRead (m ++ [b]) m.length = .ok b := by
  simp [memRead]

/-- Append leaves every other offset alone (R21). -/
theorem memRead_append_of_lt {m : Memory} {i : Nat} (t : List Byte) (h : i < m.length) :
    memRead (m ++ t) i = memRead m i := by
  simp [memRead, List.getElem?_append_left h]

/-- A run of bytes the buffer holds does not change when bytes are appended. -/
theorem memReadN_append_of_le {m : Memory} {i n : Nat} (t : List Byte) (h : i + n ≤ m.length) :
    memReadN (m ++ t) i n = memReadN m i n := by
  rw [memReadN_of_le h, memReadN_of_le (by simp; omega), List.drop_append_of_le_length (by omega),
    List.take_append_of_le_length (by simp; omega)]

/-- R40: after `Discard(n)` the byte that was at offset `n + i` is at offset `i`. -/
theorem memRead_discard {m : Memory} {n i : Nat} {b : Byte} (h : memRead m (n + i) = .ok b) :
    memRead (m.drop n) i = .ok b := by
  simp only [memRead, List.getElem?_drop] at *
  cases hb : m[n + i]? <;> simp_all

/-! ### The well-formed form -/

theorem memoryCells_addresses (m : Memory) (base : Nat) :
    (memoryCells base m).map Prod.fst = List.range' base m.length := by
  induction m generalizing base with
  | nil => rfl
  | cons b bs ih => simp [memoryCells, ih, List.range'_succ]

/-- The addresses of a buffer are 0, 1, 2, … without a gap, so the capacity bound is what is left of
the form. -/
theorem memory_wf_iff_fits (c : Config) (m : Memory) : Memory.wf c m = Memory.fits c m := by
  simp [Memory.wf, memoryCells_addresses, List.range_eq_range']

theorem memory_wf_none (m : Memory) : Memory.wf { rxbufCap := none } m = true := by
  rw [memory_wf_iff_fits]; rfl

theorem memory_wf_of_length_le {c : Config} {m m' : Memory} (h : Memory.wf c m = true)
    (hl : m'.length ≤ m.length) : Memory.wf c m' = true := by
  rw [memory_wf_iff_fits] at *
  cases hc : c.rxbufCap with
  | none => simp [Memory.fits, hc]
  | some cap => simp only [Memory.fits, hc, decide_eq_true_eq] at *; omega

/-- RESET's clear and the noise flush keep the form. -/
theorem memory_wf_nil (c : Config) : Memory.wf c [] = true := by
  rw [memory_wf_iff_fits]; cases hc : c.rxbufCap <;> simp [Memory.fits, hc]

/-- Discard keeps the form. -/
theorem memory_wf_discard {c : Config} {m : Memory} (h : Memory.wf c m = true) (n : Nat) :
    Memory.wf c (m.drop n) = true :=
  memory_wf_of_length_le h (by simp)

/-- Append keeps the form of a buffer that is not full. -/
theorem memory_wf_append {c : Config} {m : Memory} (h : Memory.wf c m = true)
    (room : c.rxbufCap ≠ some m.length) (b : Byte) : Memory.wf c (m ++ [b]) = true := by
  rw [memory_wf_iff_fits] at *
  cases hc : c.rxbufCap with
  | none => simp [Memory.fits, hc]
  | some cap =>
    simp only [Memory.fits, hc, decide_eq_true_eq, List.length_append, List.length_singleton] at *
    have : cap ≠ m.length := fun e => room (by rw [e])
    omega

/-- Append after the noise flush keeps the form of a legal capacity. -/
theorem memory_wf_singleton {c : Config} (h : c.legal = true) (b : Byte) :
    Memory.wf c [b] = true := by
  rw [memory_wf_iff_fits]
  cases hc : c.rxbufCap with
  | none => simp [Memory.fits, hc]
  | some cap =>
    have hcap : MAX_FRAME_LEN ≤ cap := by simpa [Config.legal, hc] using h
    have : 1 ≤ cap := Nat.le_trans (by decide) hcap
    simpa [Memory.fits, hc] using this

end Sys2Proof.Machine
end

