-- ==== Sys2Proof/Laws/State.lean ====
section
/-!
SUPPORT. Sys2Proof/Laws/State.lean: one lemma per field per update of the state, and what the
updates do to the projections of the history.
-/

namespace Sys2Proof.Machine

variable (s : State) (m : Memory) (es : List Event) (v : Response) (q : List Issue)

@[simp] theorem setRxbuf_config : (s.setRxbuf m).config = s.config := rfl
@[simp] theorem setRxbuf_rxbuf : (s.setRxbuf m).rxbuf = m := rfl
@[simp] theorem setRxbuf_history : (s.setRxbuf m).history = s.history := rfl
@[simp] theorem setRxbuf_rxResponses : (s.setRxbuf m).rxResponses = s.rxResponses := rfl
@[simp] theorem setRxbuf_txResponses : (s.setRxbuf m).txResponses = s.txResponses := rfl
@[simp] theorem setRxbuf_pending : (s.setRxbuf m).pending = s.pending := rfl

@[simp] theorem append_config (b : Byte) : (s.append b).config = s.config := rfl
@[simp] theorem append_rxbuf (b : Byte) : (s.append b).rxbuf = s.rxbuf ++ [b] := rfl
@[simp] theorem append_history (b : Byte) : (s.append b).history = s.history := rfl
@[simp] theorem append_rxResponses (b : Byte) : (s.append b).rxResponses = s.rxResponses := rfl
@[simp] theorem append_txResponses (b : Byte) : (s.append b).txResponses = s.txResponses := rfl
@[simp] theorem append_pending (b : Byte) : (s.append b).pending = s.pending := rfl

@[simp] theorem discard_config (n : Nat) : (s.discard n).config = s.config := rfl
@[simp] theorem discard_rxbuf (n : Nat) : (s.discard n).rxbuf = s.rxbuf.drop n := rfl
@[simp] theorem discard_history (n : Nat) : (s.discard n).history = s.history := rfl
@[simp] theorem discard_rxResponses (n : Nat) : (s.discard n).rxResponses = s.rxResponses := rfl
@[simp] theorem discard_txResponses (n : Nat) : (s.discard n).txResponses = s.txResponses := rfl
@[simp] theorem discard_pending (n : Nat) : (s.discard n).pending = s.pending := rfl

@[simp] theorem emit_config : (s.emit es).config = s.config := rfl
@[simp] theorem emit_rxbuf : (s.emit es).rxbuf = s.rxbuf := rfl
@[simp] theorem emit_history : (s.emit es).history = s.history ++ es := rfl
@[simp] theorem emit_rxResponses : (s.emit es).rxResponses = s.rxResponses := rfl
@[simp] theorem emit_txResponses : (s.emit es).txResponses = s.txResponses := rfl
@[simp] theorem emit_pending : (s.emit es).pending = s.pending := rfl

@[simp] theorem respond_config (p : Port) : (s.respond p v).config = s.config := by cases p <;> rfl
@[simp] theorem respond_rxbuf (p : Port) : (s.respond p v).rxbuf = s.rxbuf := by cases p <;> rfl
@[simp] theorem respond_history (p : Port) : (s.respond p v).history = s.history := by
  cases p <;> rfl
@[simp] theorem respond_pending (p : Port) : (s.respond p v).pending = s.pending := by
  cases p <;> rfl
@[simp] theorem respond_rx_rxResponses :
    (s.respond .rx v).rxResponses = s.rxResponses ++ [v] := rfl
@[simp] theorem respond_rx_txResponses : (s.respond .rx v).txResponses = s.txResponses := rfl
@[simp] theorem respond_tx_rxResponses : (s.respond .tx v).rxResponses = s.rxResponses := rfl
@[simp] theorem respond_tx_txResponses :
    (s.respond .tx v).txResponses = s.txResponses ++ [v] := rfl

@[simp] theorem setPending_config : (s.setPending q).config = s.config := rfl
@[simp] theorem setPending_rxbuf : (s.setPending q).rxbuf = s.rxbuf := rfl
@[simp] theorem setPending_history : (s.setPending q).history = s.history := rfl
@[simp] theorem setPending_rxResponses : (s.setPending q).rxResponses = s.rxResponses := rfl
@[simp] theorem setPending_txResponses : (s.setPending q).txResponses = s.txResponses := rfl
@[simp] theorem setPending_pending : (s.setPending q).pending = q := rfl

@[simp] theorem setRxbuf_setRxbuf (m' : Memory) : (s.setRxbuf m).setRxbuf m' = s.setRxbuf m' := rfl
@[simp] theorem emit_nil : s.emit [] = s := by simp [State.emit]

@[simp] theorem responsesAt_rx : s.responsesAt .rx = s.rxResponses := rfl
@[simp] theorem responsesAt_tx : s.responsesAt .tx = s.txResponses := rfl

/-- A stream after `emit`: what it held, then its part of the new events (R28, R51). -/
theorem emit_tx : (s.emit es).tx = s.tx ++ es.filterMap Event.txByte := by simp [State.tx]
theorem emit_frameOut : (s.emit es).frameOut = s.frameOut ++ es.filterMap Event.frame := by
  simp [State.frameOut]
theorem emit_errOut : (s.emit es).errOut = s.errOut ++ es.filterMap Event.notification := by
  simp [State.errOut]

/-- The three streams depend on the history alone. -/
theorem tx_of_history {s t : State} (h : s.history = t.history) : s.tx = t.tx := by
  simp [State.tx, h]
theorem frameOut_of_history {s t : State} (h : s.history = t.history) :
    s.frameOut = t.frameOut := by simp [State.frameOut, h]
theorem errOut_of_history {s t : State} (h : s.history = t.history) : s.errOut = t.errOut := by
  simp [State.errOut, h]

/-- Each event is on its own output and on no other (R28). -/
@[simp] theorem txByte_tx (b : Byte) : (Event.tx b).txByte = some b := rfl
@[simp] theorem txByte_frameOut (f : CanFrame) : (Event.frameOut f).txByte = none := rfl
@[simp] theorem txByte_errOut (e : ErrorNotification) : (Event.errOut e).txByte = none := rfl
@[simp] theorem frame_tx (b : Byte) : (Event.tx b).frame = none := rfl
@[simp] theorem frame_frameOut (f : CanFrame) : (Event.frameOut f).frame = some f := rfl
@[simp] theorem frame_errOut (e : ErrorNotification) : (Event.errOut e).frame = none := rfl
@[simp] theorem notification_tx (b : Byte) : (Event.tx b).notification = none := rfl
@[simp] theorem notification_frameOut (f : CanFrame) :
    (Event.frameOut f).notification = none := rfl
@[simp] theorem notification_errOut (e : ErrorNotification) :
    (Event.errOut e).notification = some e := rfl

@[simp] theorem txByte_comp_tx : Event.txByte ∘ Event.tx = some := rfl
@[simp] theorem frame_comp_tx : Event.frame ∘ Event.tx = fun _ => none := rfl
@[simp] theorem notification_comp_tx : Event.notification ∘ Event.tx = fun _ => none := rfl

end Sys2Proof.Machine
end

