-- ==== Sys2Proof/Laws/Scanner.lean ====
section
/-!
SUPPORT. Sys2Proof/Laws/Scanner.lean: what each step of the extraction function can answer, said
once: the gate of steps 1 and 2 on each form of a buffer, and each branch of step 3 on a buffer that
passed it.
-/

namespace Sys2Proof.Machine

/-! ### Steps 1 and 2 -/

theorem start_findIdx?_none {m : Memory} (h : START ∉ m) :
    m.findIdx? (· == START) = none := by
  simp only [List.findIdx?_eq_none_iff]
  intro x hx
  simpa using fun e : x = START => h (e ▸ hx)

theorem start_findIdx?_append {noise : Memory} (h : START ∉ noise) (rest : Memory) :
    (noise ++ START :: rest).findIdx? (· == START) = some noise.length := by
  rw [List.findIdx?_append, start_findIdx?_none h]
  simp [List.findIdx?_cons]

/-- Step 1, no start marker in the buffer, the empty buffer included (R124). -/
theorem scanGate_noMarker {m : Memory} (h : START ∉ m) (go : Except Fault ExtractResult) :
    scanGate m go = .ok (waitFor .waitNoMarker) := by
  cases m with
  | nil => rfl
  | cons b bs =>
    have hb : b ≠ START := fun e => h (by simp [e])
    have hf := start_findIdx?_none h
    simp only [scanGate, memRead_of_lt (show 0 < (b :: bs).length by simp), List.getElem_cons_zero,
      List.length_cons, Nat.add_eq_zero_iff, Nat.one_ne_zero, and_false, if_false, bind,
      Except.bind, ne_eq, hb, not_false_eq_true, if_true, hf]

/-- Step 1, noise before the first start marker (R124). -/
theorem scanGate_noise {noise : Memory} (hne : noise ≠ []) (h : START ∉ noise) (rest : Memory)
    (go : Except Fault ExtractResult) :
    scanGate (noise ++ START :: rest) go = .ok (skip noise.length .noise) := by
  cases noise with
  | nil => exact absurd rfl hne
  | cons b bs =>
    have hb : b ≠ START := fun e => h (by simp [e])
    have hf := start_findIdx?_append h rest
    simp only [List.cons_append] at hf ⊢
    simp only [scanGate, memRead_of_lt (show 0 < (b :: (bs ++ START :: rest)).length by simp),
      List.getElem_cons_zero, List.length_cons, Nat.add_eq_zero_iff, Nat.one_ne_zero, and_false,
      if_false, bind, Except.bind, ne_eq, hb, not_false_eq_true, if_true, hf]

/-- Step 2, fewer than four bytes behind a start marker at the front (R125). -/
theorem scanGate_short {rest : Memory} (h : rest.length < 3) (go : Except Fault ExtractResult) :
    scanGate (START :: rest) go = .ok (waitFor .waitShort) := by
  simp only [scanGate, memRead_of_lt (show 0 < (START :: rest).length by simp),
    List.getElem_cons_zero, List.length_cons, Nat.add_eq_zero_iff, Nat.one_ne_zero, and_false,
    if_false, bind, Except.bind, ne_eq, not_true_eq_false, MIN_CLASSIFY_LEN,
    show rest.length + 1 < 4 by omega, if_true]

/-- A buffer that passes steps 1 and 2 goes on to step 3 (R124, R125). -/
theorem scanGate_pass {rest : Memory} (h : 3 ≤ rest.length) (go : Except Fault ExtractResult) :
    scanGate (START :: rest) go = go := by
  simp only [scanGate, memRead_of_lt (show 0 < (START :: rest).length by simp),
    List.getElem_cons_zero, List.length_cons, Nat.add_eq_zero_iff, Nat.one_ne_zero, and_false,
    if_false, bind, Except.bind, ne_eq, not_true_eq_false, MIN_CLASSIFY_LEN,
    show ¬ rest.length + 1 < 4 by omega]

/-- A buffer without a start marker, with noise before the first, too short behind it, or ready for
step 3: one of the four forms holds of every buffer. -/
theorem buffer_forms (m : Memory) :
    START ∉ m ∨ (∃ noise rest, noise ≠ [] ∧ START ∉ noise ∧ m = noise ++ START :: rest)
      ∨ (∃ rest, m = START :: rest ∧ rest.length < 3)
      ∨ ∃ h a b rest, m = START :: h :: a :: b :: rest := by
  by_cases hm : START ∈ m
  · obtain ⟨noise, rest, rfl, hn⟩ := List.eq_append_cons_of_mem hm
    by_cases hne : noise = []
    · subst hne
      match rest with
      | h :: a :: b :: rest => exact .inr (.inr (.inr ⟨h, a, b, rest, rfl⟩))
      | [] | [_] | [_, _] => exact .inr (.inr (.inl ⟨_, rfl, by simp⟩))
    · exact .inr (.inl ⟨noise, rest, hne, hn, rfl⟩)
  · exact .inl hm

/-! ### Step 3 -/

/-- A data frame whose bytes have not all arrived (R126). -/
theorem scanData_short {h : Byte} {m : Memory} (hl : m.length < totalLength h) :
    scanData h m = .ok (waitFor .waitData) := by
  simp [scanData, hl]

/-- A complete data frame without its stop marker (R126). -/
theorem scanData_badStop {h : Byte} {m : Memory} {last : Byte}
    (hl : m[totalLength h - 1]? = some last) (hs : last ≠ STOP) :
    scanData h m = .ok (skip (totalLength h) .dataBadStop) := by
  have hlen := (List.getElem?_eq_some_iff.mp hl).1
  have : ¬ m.length < totalLength h := by omega
  simp [scanData, this, memRead_of_getElem? hl, hs, bind, Except.bind]

/-- A complete data frame with its stop marker (R126, R105). -/
theorem scanData_ok {h : Byte} {m : Memory} (hl : m[totalLength h - 1]? = some STOP) :
    scanData h m = .ok
      { discard := totalLength h
        unit := .data (decodeDataFrame h ((m.drop 2).take (idWidth (headerExt h)))
          ((m.drop (2 + idWidth (headerExt h))).take (headerDlc h)))
        reason := .dataOk } := by
  have hlen := (List.getElem?_eq_some_iff.mp hl).1
  have hw : 2 ≤ idWidth (headerExt h) := by cases headerExt h <;> simp [idWidth]
  have ht : totalLength h = headerDlc h + 3 + idWidth (headerExt h) := rfl
  have : ¬ m.length < totalLength h := by omega
  have h1 : 2 + idWidth (headerExt h) ≤ m.length := by omega
  have h2 : 2 + idWidth (headerExt h) + headerDlc h ≤ m.length := by omega
  simp [scanData, this, memRead_of_getElem? hl, memReadN_of_le h1, memReadN_of_le h2, bind,
    Except.bind]

/-- The three answers of the data branch, and no other (R126). -/
theorem scanData_cases (h : Byte) (m : Memory) :
    (m.length < totalLength h ∧ scanData h m = .ok (waitFor .waitData))
      ∨ (∃ last, m[totalLength h - 1]? = some last ∧ last ≠ STOP
          ∧ scanData h m = .ok (skip (totalLength h) .dataBadStop))
      ∨ (m[totalLength h - 1]? = some STOP
          ∧ scanData h m = .ok
            { discard := totalLength h
              unit := .data (decodeDataFrame h ((m.drop 2).take (idWidth (headerExt h)))
                ((m.drop (2 + idWidth (headerExt h))).take (headerDlc h)))
              reason := .dataOk }) := by
  by_cases hl : m.length < totalLength h
  · exact .inl ⟨hl, scanData_short hl⟩
  · have hpos : 0 < totalLength h := by
      have : totalLength h = headerDlc h + 3 + idWidth (headerExt h) := rfl
      omega
    have hi : totalLength h - 1 < m.length := by omega
    by_cases hs : m[totalLength h - 1] = STOP
    · have h? : m[totalLength h - 1]? = some STOP := by rw [List.getElem?_eq_getElem hi, hs]
      exact .inr (.inr ⟨h?, scanData_ok h?⟩)
    · have h? := List.getElem?_eq_getElem hi
      exact .inr (.inl ⟨_, h?, hs, scanData_badStop h? hs⟩)

/-- The error branch on a buffer of four bytes or more (R127). -/
theorem scanError_eq (s t code last : Byte) (rest : Memory) :
    scanError (s :: t :: code :: last :: rest) =
      if last = STOP then
        match decodeError code with
        | .error e => .ok { discard := 4, unit := .error e, reason := .errOk }
        | u => .ok { discard := 4, unit := u, reason := .errDecodeFailure }
      else .ok (skip 4 .errBadStop) := by
  by_cases hl : last = STOP
  · cases hd : decodeError code <;>
      simp [scanError, ERROR_FRAME_LEN, memRead, hl, hd, bind, Except.bind]
  · simp [scanError, ERROR_FRAME_LEN, memRead, hl, bind, Except.bind]

/-- decode_error gives a notification for the codes 0 to 4, and a failure that carries the code for
every other (R106). -/
theorem decodeError_cases (code : Byte) :
    (∃ e, decodeError code = .error e ∧ code = e.code)
      ∨ (decodeError code = .decodeFailure code ∧ 5 ≤ code.toNat) := by
  unfold decodeError
  split_ifs with h0 h1 h2 h3 h4
  · exact .inl ⟨_, rfl, h0⟩
  · exact .inl ⟨_, rfl, h1⟩
  · exact .inl ⟨_, rfl, h2⟩
  · exact .inl ⟨_, rfl, h3⟩
  · exact .inl ⟨_, rfl, h4⟩
  · refine .inr ⟨rfl, ?_⟩
    simp only [← BitVec.toNat_inj, BitVec.ofNat_eq_ofNat, BitVec.toNat_ofNat] at h0 h1 h2 h3 h4
    omega

/-- The extraction function on a buffer that passes steps 1 and 2 (R123). -/
theorem tryExtractOne_pass (h a b : Byte) (rest : Memory) :
    tryExtractOne (START :: h :: a :: b :: rest) = scanType h (START :: h :: a :: b :: rest) := by
  rw [tryExtractOne, scanGate_pass (by simp)]
  simp [memRead, bind, Except.bind]

/-! ### The results of an extraction step -/

@[simp] theorem applyResult_config (s : State) (r : ExtractResult) :
    (s.applyResult r).config = s.config := rfl
@[simp] theorem applyResult_rxbuf (s : State) (r : ExtractResult) :
    (s.applyResult r).rxbuf = s.rxbuf.drop r.discard := rfl
@[simp] theorem applyResult_history (s : State) (r : ExtractResult) :
    (s.applyResult r).history = s.history ++ route r.unit := rfl
@[simp] theorem applyResult_rxResponses (s : State) (r : ExtractResult) :
    (s.applyResult r).rxResponses = s.rxResponses := rfl
@[simp] theorem applyResult_txResponses (s : State) (r : ExtractResult) :
    (s.applyResult r).txResponses = s.txResponses := rfl
@[simp] theorem applyResult_pending (s : State) (r : ExtractResult) :
    (s.applyResult r).pending = s.pending := rfl

/-- What DRAIN's loop leaves alone: everything but the buffer and the history. -/
theorem drainLoop_frame {fuel : Nat} {s t : State} {rs : List ExtractResult}
    (h : drainLoop fuel s = .ok (t, rs)) :
    t.config = s.config ∧ t.rxResponses = s.rxResponses ∧ t.txResponses = s.txResponses
      ∧ t.pending = s.pending := by
  induction fuel generalizing s t rs with
  | zero => simp only [drainLoop, Except.ok.injEq, Prod.mk.injEq] at h; simp [← h.1]
  | succ fuel ih =>
    simp only [drainLoop] at h
    split at h
    · simp only [Except.ok.injEq, Prod.mk.injEq] at h; simp [← h.1]
    · cases hr : tryExtractOne s.rxbuf with
      | error f => simp [hr, bind, Except.bind] at h
      | ok r =>
        simp only [hr, bind, Except.bind] at h
        split at h
        · simp only [Except.ok.injEq, Prod.mk.injEq] at h; simp [← h.1]
        · cases hd : drainLoop fuel (s.applyResult r) with
          | error f => simp [hd] at h
          | ok p =>
            simp only [hd, Except.ok.injEq, Prod.mk.injEq] at h
            have := ih (t := p.1) (rs := p.2) (by rw [hd])
            simpa [← h.1] using this

end Sys2Proof.Machine
end

