-- ==== Sys2Proof/Laws/Exec.lean ====
section
/-!
SUPPORT. Sys2Proof/Laws/Exec.lean: what the shared operations of the meanings can answer, said once
each: the port check, the answers of the agents, one applied extraction step, and a wire row on
each form of a buffer.
-/

namespace Sys2Proof.Machine

/-! ### The port check (R77, R179) -/

theorem onPort_own {own p : Port} (h : p = own) (s : State) (k : Result) : onPort own p s k = k := by
  simp [onPort, h]

theorem onPort_other {own p : Port} (h : p ≠ own) (s : State) (k : Result) :
    onPort own p s k = .next (s.respond p (Response.plain .badOp)) := by
  simp [onPort, h, badOp]

/-! ### Answers -/

theorem okRx_eq (s : State) :
    okRx s = .next { s with rxResponses := s.rxResponses ++ [Response.plain .ok] } := rfl

/-- A transmit command changes the history and the TX responses alone (R100, R103). -/
theorem transmit_eq (out : List Byte) (s : State) :
    transmit out s = .next { s with
      history := s.history ++ out.map Event.tx
      txResponses := s.txResponses ++ [Response.plain .ok] } := rfl

/-- An applied extraction step (R129). -/
theorem extractWith_ok (r : ExtractResult) (s : State) :
    extractWith (.ok r) s = .next { s with
      rxbuf := s.rxbuf.drop r.discard
      history := s.history ++ route r.unit
      rxResponses := s.rxResponses ++ [{ status := .ok, body := .result r }] } := rfl

/-- The two things PUSH into a full buffer does (R121). -/
theorem pushFull_eq (data : Byte) (s : State) :
    pushFull data s =
      if START ∈ s.rxbuf then
        .next { s with rxResponses := s.rxResponses ++ [Response.plain .bufFull] }
      else .next { s with
        rxbuf := [data]
        rxResponses := s.rxResponses ++ [Response.plain .ok] } := rfl

/-! ### The steps of a wire row -/

/-- A buffer that passes steps 1 and 2 is the branch's (R123). -/
theorem wireStep_pass {s : State} {rest : Memory} (hs : s.rxbuf = START :: rest)
    (h : 3 ≤ rest.length) (branch : Memory → Except Fault ExtractResult) :
    wireStep branch s = extractWith (branch s.rxbuf) s := by
  rw [wireStep, hs, scanGate_pass h]

/-- A buffer that stops at step 1 or 2 never reaches the branch (R124, R125). -/
theorem wireStep_gate {s : State} {r : ExtractResult} (h : ∀ go, scanGate s.rxbuf go = .ok r)
    (branch : Memory → Except Fault ExtractResult) :
    wireStep branch s = extractWith (.ok r) s := by
  rw [wireStep, h]

/-! ### DRAIN's loop, one turn (R132) -/

theorem drainLoop_empty {s : State} (h : s.rxbuf = []) (fuel : Nat) :
    drainLoop fuel s = .ok (s, []) := by
  cases fuel <;> simp [drainLoop, h]

theorem drainLoop_wait {s : State} {r : ExtractResult} (hs : s.rxbuf ≠ [])
    (hr : tryExtractOne s.rxbuf = .ok r) (h0 : r.discard = 0) (fuel : Nat) :
    drainLoop (fuel + 1) s = .ok (s.applyResult r, [r]) := by
  simp [drainLoop, hs, hr, h0, bind, Except.bind]

theorem drainLoop_more {s t : State} {r : ExtractResult} {rs : List ExtractResult} {fuel : Nat}
    (hs : s.rxbuf ≠ []) (hr : tryExtractOne s.rxbuf = .ok r) (h0 : r.discard ≠ 0)
    (hl : drainLoop fuel (s.applyResult r) = .ok (t, rs)) :
    drainLoop (fuel + 1) s = .ok (t, r :: rs) := by
  simp [drainLoop, hs, hr, h0, hl, bind, Except.bind]

end Sys2Proof.Machine
end

