-- ==== Sys2Proof/Laws/PerInstr.lean ====
section
/-!
SUPPORT. Sys2Proof/Laws/PerInstr.lean: the family TableMatch: the encoding of every well-formed
instruction carries the bits its row of spec/opcode_table.json fixes, one lemma per constructor.
-/

namespace Sys2Proof.Laws.TableMatch

/-- The mask and match of a row of spec/opcode_table.json, of the first byte: the command rows name
bits 2:0, the wire rows their type byte's bits. WIRE_UNKNOWN's row fixes none. -/
def row : Instr → Byte × Byte
  | .reset _ => (7, 0)
  | .push _ _ => (7, 1)
  | .extract _ => (7, 2)
  | .drain _ => (7, 3)
  | .encodeData _ _ _ _ _ => (7, 4)
  | .encodeConfig _ _ _ _ _ _ _ => (7, 5)
  | .reserved110 _ => (7, 6)
  | .reserved111 _ => (7, 7)
  | .wireDataStd _ _ => (0xE0, 0xC0)
  | .wireDataExt _ _ => (0xE0, 0xE0)
  | .wireError => (0xFF, 0x15)
  | .wireConfig => (0xFF, 0x13)
  | .wireUnknown _ => (0, 0)

/-- The encoding of a well-formed instruction matches its row, and a WIRE_UNKNOWN byte matches no
row of another wire type. -/
def Statement (i : Instr) : Prop :=
  i.wf = true → ∃ b, (encode i).2.head? = some b ∧ b &&& (row i).1 = (row i).2
    ∧ ∀ t, i = .wireUnknown t → b &&& 0xC0 ≠ 0xC0 ∧ b ≠ 0x15 ∧ b ≠ 0x13

/-- A command's encoding matches its row if its record has the row's op. -/
theorem of_record {i : Instr} {p : Port} {r : Record} (hr : encodeRecord i = some (p, r))
    (hm : (row i).1 = 7) (ho : r.op.setWidth 8 = (row i).2) (hu : ∀ t, i ≠ .wireUnknown t) :
    Statement i := by
  intro _
  refine ⟨BitVec.ofNat 8 r.toNat, ?_, ?_, fun t h => absurd h (hu t)⟩
  · rw [encode, hr]; exact (firstByte_op r).1
  · rw [hm, ← ho]; exact (firstByte_op r).2

theorem reset (port : Port) : Statement (.reset port) :=
  of_record rfl rfl (by rw [opOnly_op]; rfl) (by simp)

theorem push (port : Port) (data : Byte) : Statement (.push port data) :=
  of_record rfl rfl (by rw [op_append]; rfl) (by simp)

theorem extract (port : Port) : Statement (.extract port) :=
  of_record rfl rfl (by rw [opOnly_op]; rfl) (by simp)

theorem drain (port : Port) : Statement (.drain port) :=
  of_record rfl rfl (by rw [opOnly_op]; rfl) (by simp)

theorem encodeData (port : Port) (id : Word32) (ext : Bool) (dlc : BitVec 4)
    (payload : List Byte) : Statement (.encodeData port id ext dlc payload) := by
  refine of_record rfl rfl ?_ (by simp)
  rw [← BitVec.setWidth_eq (_ ++ (4 : BitVec 3)), op_append]; rfl

theorem encodeConfig (port : Port) (bitrate : Word32) (term silent erpt : Bool)
    (filterId filterMask : Word32) :
    Statement (.encodeConfig port bitrate term silent erpt filterId filterMask) :=
  of_record rfl rfl (by rw [op_append]; rfl) (by simp)

theorem reserved110 (port : Port) : Statement (.reserved110 port) :=
  of_record rfl rfl (by rw [opOnly_op]; rfl) (by simp)

theorem reserved111 (port : Port) : Statement (.reserved111 port) :=
  of_record rfl rfl (by rw [opOnly_op]; rfl) (by simp)

theorem wireDataStd (bit4 : Bool) (dlc : BitVec 4) : Statement (.wireDataStd bit4 dlc) :=
  fun _ => ⟨_, rfl, by revert bit4 dlc; decide, by simp⟩

theorem wireDataExt (bit4 : Bool) (dlc : BitVec 4) : Statement (.wireDataExt bit4 dlc) :=
  fun _ => ⟨_, rfl, by revert bit4 dlc; decide, by simp⟩

theorem wireError : Statement .wireError := fun _ => ⟨_, rfl, by decide, by simp⟩

theorem wireConfig : Statement .wireConfig := fun _ => ⟨_, rfl, by decide, by simp⟩

theorem wireUnknown (type : Byte) : Statement (.wireUnknown type) := by
  intro h
  refine ⟨type, rfl, by simp [row], fun t ht => ?_⟩
  cases ht
  simpa [Instr.wf, Byte.isUnknownType, DATA_TYPE_MASK, DATA_TYPE_MATCH, TYPE_ERROR, TYPE_CONFIG,
    and_assoc] using h

end Sys2Proof.Laws.TableMatch
end

