-- ==== Sys2Proof/Laws/Session.lean ====
section
/-!
SUPPORT. Sys2Proof/Laws/Session.lean: what the pieces of the host's receive answer: the blocking read
over silence, and an empty backlog.
-/

namespace Sys2Proof.Machine

/-! ### The blocking read (R157) -/

/-- Silence alone ends as the read says silence ends. -/
theorem firstArrival_silence (silent : ReadEnd) (n : Nat) :
    firstArrival silent (List.replicate n (some [])) = silent := by
  induction n with
  | zero => rfl
  | succ n ih => exact ih

/-- Silence in front of an arrival changes nothing. -/
theorem firstArrival_after_silence (silent : ReadEnd) (n : Nat) (ticks : List Arrival) :
    firstArrival silent (List.replicate n (some []) ++ ticks) = firstArrival silent ticks := by
  induction n with
  | zero => rfl
  | succ n ih => exact ih

theorem firstArrival_bytes (silent : ReadEnd) (b : Byte) (bs : List Byte) (later : List Arrival) :
    firstArrival silent (some (b :: bs) :: later) = .bytes (b :: bs) := rfl

theorem firstArrival_failed (silent : ReadEnd) (later : List Arrival) :
    firstArrival silent (none :: later) = .failed := rfl

/-! ### The session -/

/-- No notification, no call. -/
theorem deliver_nil (s : Session) : s.deliver [] = s := by
  rcases s with ⟨_, _ | _, _, _, _⟩ <;> simp [Session.deliver]

/-- An empty backlog pushes nothing. -/
theorem pushAll_empty_backlog {s : Session} (h : s.backlog = []) :
    s.pushAll s.backlog = (s, .ok none) := by
  rcases s with ⟨_, _, _, _, _⟩
  subst h
  simp [Session.pushAll, Session.feed]

end Sys2Proof.Machine
end

