-- ==== Sys2Proof/Machine/Assembly.lean ====
section
/-!
DEFINITION. Sys2Proof/Machine/Assembly.lean: the textual form of commands (R78) and the
pseudo-commands (R79): a reader of one line and the commands a line stands for. Notation only: no
statement about the block rests on it.
-/

namespace Sys2Proof.Machine

/-- R78, R79: one line of the textual form. -/
inductive Command where
  | reset
  | extract
  | drain
  | push (data : Byte)
  | encodeData (id : Word32) (ext : Bool) (data : List Byte)
  | encodeConfig (bitrate : Word32) (term silent erpt : Bool) (filterId filterMask : Word32)
  | pushn (data : List Byte)
  | receive
  deriving DecidableEq, Repr

/-- The instructions a line stands for, each at the port of its agent. A listing of more than 15
bytes is not a command (R78). RECEIVE is no fixed sequence: its loop depends on the responses
(R79), and is `Session.stepA`. -/
def Command.assemble : Command → Option (List Instr)
  | .reset => some [.reset .rx]
  | .extract => some [.extract .rx]
  | .drain => some [.drain .rx]
  | .push b => some [.push .rx b]
  | .encodeData id ext data =>
    if data.length ≤ DEC_MAX_DLC then
      some [.encodeData .tx id ext (BitVec.ofNat 4 data.length) (payloadOperand data)]
    else none
  | .encodeConfig bitrate term silent erpt filterId filterMask =>
    some [.encodeConfig .tx bitrate term silent erpt filterId filterMask]
  | .pushn data => some (data.map fun b => .push .rx b)
  | .receive => none

/-! ### Reading a line -/

/-- The value of a digit, in any base up to 16. -/
def digitValue (c : Char) : Option Nat :=
  if '0' ≤ c ∧ c ≤ '9' then some (c.toNat - '0'.toNat)
  else if 'a' ≤ c ∧ c ≤ 'f' then some (c.toNat - 'a'.toNat + 10)
  else if 'A' ≤ c ∧ c ≤ 'F' then some (c.toNat - 'A'.toNat + 10)
  else none

/-- The value of digits in a base, most significant first, after `acc`. -/
def digitsValue (base : Nat) : Nat → List Char → Option Nat
  | acc, [] => some acc
  | acc, c :: cs =>
    match digitValue c with
    | some d => if d < base then digitsValue base (acc * base + d) cs else none
    | none => none

/-- R10: a number, hexadecimal after `0x`, else decimal. -/
def numberValue : List Char → Option Nat
  | '0' :: 'x' :: c :: cs => digitsValue 16 0 (c :: cs)
  | c :: cs => digitsValue 10 0 (c :: cs)
  | [] => none

/-- A number that fits `w` bits. -/
def fieldValue (w : Nat) (t : List Char) : Option (BitVec w) :=
  match numberValue t with
  | some n => if n < 2 ^ w then some (BitVec.ofNat w n) else none
  | none => none

/-- A one-bit field. -/
def bitValue (t : List Char) : Option Bool :=
  match numberValue t with
  | some 0 => some false
  | some 1 => some true
  | _ => none

/-- The tokens of a line: words, and the signs `=`, `,`, `[`, `]` on their own; a `;` starts a
comment (R78). `word` is the word being read, backwards. -/
def tokens : List Char → List Char → List (List Char)
  | word, [] => if word = [] then [] else [word.reverse]
  | word, c :: cs =>
    let before := if word = [] then [] else [word.reverse]
    if c = ';' then before
    else if c = ' ' then before ++ tokens [] cs
    else if c = '=' ∨ c = ',' ∨ c = '[' ∨ c = ']' then before ++ [c] :: tokens [] cs
    else tokens (c :: word) cs

/-- The bytes of a listing after its `[` (R10), up to the `]` that ends the line. -/
def listing : List (List Char) → Option (List Byte)
  | [[']']] => some []
  | t :: ts =>
    match digitsValue 16 0 t, listing ts with
    | some n, some bs => if n < 256 then some (BitVec.ofNat 8 n :: bs) else none
    | _, _ => none
  | [] => none

/-- The tokens behind `name =`, or `none` if the line does not go on so. -/
def afterField (name : String) : List (List Char) → Option (List (List Char))
  | t :: ['='] :: ts => if t = name.toList then some ts else none
  | _ => none

/-- The value token of `name = value ,`, and the tokens behind it. -/
def fieldThen (name : String) (ts : List (List Char)) : Option (List Char × List (List Char)) :=
  match afterField name ts with
  | some (v :: [','] :: rest) => some (v, rest)
  | _ => none

/-- The operands of ENCODE_DATA (R78). -/
def readEncodeData (ts : List (List Char)) : Option Command := do
  let (id, ts) ← fieldThen "id" ts
  let (ext, ts) ← fieldThen "ext" ts
  match ← afterField "data" ts with
  | ['['] :: body => some (.encodeData (← fieldValue 32 id) (← bitValue ext) (← listing body))
  | _ => none

/-- The operands of ENCODE_CONFIG (R78). -/
def readEncodeConfig (ts : List (List Char)) : Option Command := do
  let (bitrate, ts) ← fieldThen "bitrate" ts
  let (term, ts) ← fieldThen "term" ts
  let (silent, ts) ← fieldThen "silent" ts
  let (erpt, ts) ← fieldThen "erpt" ts
  let (filterId, ts) ← fieldThen "filter_id" ts
  match ← afterField "filter_mask" ts with
  | [filterMask] =>
    some (.encodeConfig (← fieldValue 32 bitrate) (← bitValue term) (← bitValue silent)
      (← bitValue erpt) (← fieldValue 32 filterId) (← fieldValue 32 filterMask))
  | _ => none

/-- One line of the textual form (R78, R79), or `none` if it is no command. -/
def readLine (line : String) : Option Command :=
  match tokens [] line.toList with
  | [] => none
  | name :: ts =>
    if name = "RESET".toList ∧ ts = [] then some .reset
    else if name = "EXTRACT".toList ∧ ts = [] then some .extract
    else if name = "DRAIN".toList ∧ ts = [] then some .drain
    else if name = "RECEIVE".toList ∧ ts = [] then some .receive
    else if name = "PUSH".toList then
      match ts with
      | [t] => (fieldValue 8 t).map .push
      | _ => none
    else if name = "PUSHN".toList then
      match ts with
      | ['['] :: body => (listing body).map .pushn
      | _ => none
    else if name = "ENCODE_DATA".toList then readEncodeData ts
    else if name = "ENCODE_CONFIG".toList then readEncodeConfig ts
    else none

end Sys2Proof.Machine
end

