-- ==== Sys2Proof/Tests/Slice0.lean ====
section
/-!
SUPPORT. Sys2Proof/Tests/Slice0.lean: smoke tests of well-formedness, words written out from the
spec's encodings, single steps whose expected results are the vectors of spec/95_test_vectors.md
(named in each comment), and, for every obligation with hypotheses, a state and operands that meet
them.
-/

namespace Sys2Proof.Tests

open Sys2Proof Sys2Proof.Machine

/-! ### Helpers -/

/-- The next state a result holds. -/
def next? : Result → Option State
  | .next s => some s
  | .fault _ | .refused _ => none

/-- A power-on block with given bytes in its buffer. -/
def holding (bs : List Byte) : State := { State.reset with rxbuf := bs }

/-- A block of capacity 22 with given bytes in its buffer. -/
def cap22 (bs : List Byte) : State := { State.resetWith { rxbufCap := some 22 } with rxbuf := bs }

/-- The buffer and the last response at a port after an instruction. -/
def after (p : Port) (i : Instr) (s : State) : Option (List Byte × Option Response) :=
  (next? (exec i s)).map fun t => (t.rxbuf, (t.responsesAt p).getLast?)

/-- An answer `OK` that carries one extraction result. -/
def answer (discard : Nat) (unit : ScanUnit) (reason : Reason) : Option Response :=
  some { status := .ok, body := .result { discard := discard, unit := unit, reason := reason } }

/-- An answer that carries its status alone. -/
def plain (st : Status) : Option Response := some (Response.plain st)

/-- The frame of vector V3.14. -/
def frame123 : CanFrame :=
  { identifier := 0x123, addressWidth := .standard, payload := [0x11, 0x22, 0x33] }

/-- Its bytes. -/
def bytes123 : List Byte := [0xAA, 0xC3, 0x23, 0x01, 0x11, 0x22, 0x33, 0x55]

/-! ### Well-formedness -/

theorem test_wf_encodeData_eight_bytes :
    (Instr.encodeData .tx 0 false 3 [1, 2, 3, 0, 0, 0, 0, 0]).wf = true := by decide
theorem test_wf_refuses_short_payload : (Instr.encodeData .tx 0 false 3 [1, 2, 3]).wf = false := by
  decide
theorem test_wf_refuses_long_payload :
    (Instr.encodeData .tx 0 false 8 [1, 2, 3, 4, 5, 6, 7, 8, 9]).wf = false := by decide
theorem test_wf_unknown : (Instr.wireUnknown 0xBF).wf = true := by decide
theorem test_wf_refuses_data_type : (Instr.wireUnknown 0xC0).wf = false := by decide
theorem test_wf_refuses_error_type : (Instr.wireUnknown 0x15).wf = false := by decide
theorem test_wf_refuses_config_type : (Instr.wireUnknown 0x13).wf = false := by decide

/-! ### Decoding of words written out from the encodings (R63, R65, R66, R69, R75, R76) -/

theorem test_decode_reset : decodeRecord .rx 0b000 = .reset .rx := by decide
/-- data = 0x02 above op 001. -/
theorem test_decode_push : decodeRecord .rx 0b00000010001 = .push .rx 0x02 := by decide
theorem test_decode_extract : decodeRecord .rx 0b010 = .extract .rx := by decide
theorem test_decode_drain : decodeRecord .rx 0b011 = .drain .rx := by decide
/-- V1.1 with ext = 1: op 100, id at bit 3, ext at bit 35, dlc at bit 36, payload[0] at bit 40. -/
theorem test_decode_encodeData :
    decodeRecord .tx (BitVec.ofNat 104
      (4 + 0x123 * 2 ^ 3 + 1 * 2 ^ 35 + 3 * 2 ^ 36 + 0x11 * 2 ^ 40 + 0x22 * 2 ^ 48 + 0x33 * 2 ^ 56
        + 0x88 * 2 ^ 96))
      = .encodeData .tx 0x123 true 3 [0x11, 0x22, 0x33, 0, 0, 0, 0, 0x88] := by decide
/-- V2.4: op 101, bitrate at bit 3, term, silent, erpt at bits 35 to 37, filter_id at bit 38,
filter_mask at bit 70. -/
theorem test_decode_encodeConfig :
    decodeRecord .tx (BitVec.ofNat 104
      (5 + 125000 * 2 ^ 3 + 1 * 2 ^ 36 + 0x123 * 2 ^ 38 + 0x7FF * 2 ^ 70))
      = .encodeConfig .tx 125000 false true false 0x123 0x7FF := by decide
theorem test_decode_reserved110 : decodeRecord .rx 0b110 = .reserved110 .rx := by decide
theorem test_decode_reserved111 : decodeRecord .tx 0b111 = .reserved111 .tx := by decide
/-- The operands of a reserved op are ignored (R75). -/
theorem test_decode_reserved_operands : decodeRecord .tx 0x7FFFFFE = .reserved110 .tx := by decide
theorem test_decode_dataStd : decodeType 0b11000011 = .wireDataStd false 3 := by decide
/-- V3.21: header bit 4 set. -/
theorem test_decode_dataStd_bit4 : decodeType 0b11010011 = .wireDataStd true 3 := by decide
theorem test_decode_dataExt : decodeType 0b11101000 = .wireDataExt false 8 := by decide
/-- 0xFF is an extended data header with dlc 15 (C14). -/
theorem test_decode_dataExt_ff : decodeType 0b11111111 = .wireDataExt true 15 := by decide
theorem test_decode_error : decodeType 0b00010101 = .wireError := by decide
theorem test_decode_config : decodeType 0b00010011 = .wireConfig := by decide
theorem test_decode_unknown : decodeType 0b10111111 = .wireUnknown 0xBF := by decide
theorem test_decode_rejects_short_record :
    (match decode (.port .rx) [0x02] with
      | .error e => some e
      | .ok _ => none) = some (.recordLength 1) := by decide
theorem test_decode_rejects_two_types :
    (match decode .wire [0xC0, 0x15] with
      | .error e => some e
      | .ok _ => none) = some (.typeLength 2) := by decide
theorem test_encode_push :
    encode (.push .rx 0xFF)
      = (.port .rx, [0xF9, 0x07, 0, 0, 0, 0, 0, 0, 0, 0, 0, 0, 0]) := by decide
theorem test_encode_dataExt : encode (.wireDataExt true 15) = (.wire, [0xFF]) := by decide

/-! ### Single steps: the RX agent's commands -/

/-- V6.1. -/
theorem test_reset : after .rx (.reset .rx) (holding [0xAA, 0xC8, 0x23]) = some ([], plain .ok) := by
  decide
/-- R120's example. -/
theorem test_push : after .rx (.push .rx 0x02) (holding [0xAA, 0x15])
    = some ([0xAA, 0x15, 0x02], plain .ok) := by decide
/-- V5.1. -/
theorem test_push_flushes : after .rx (.push .rx 0x02) (cap22 (List.replicate 22 0x01))
    = some ([0x02], plain .ok) := by decide
/-- V3.14. -/
theorem test_extract : after .rx (.extract .rx) (holding bytes123)
    = some ([], answer 8 (.data frame123) .dataOk) := by decide
/-- V3.5. -/
theorem test_extract_noise : after .rx (.extract .rx) (holding [0x55, 0x55, 0xAA, 0xC0])
    = some ([0xAA, 0xC0], answer 2 .none .noise) := by decide
/-- V4.6. -/
theorem test_drain : after .rx (.drain .rx) (holding [0x10, 0xAA, 0x15, 0x04, 0x55, 0x20, 0x30])
    = some ([0x20, 0x30], some {
        status := .ok
        body := .results [
          { discard := 1, unit := .none, reason := .noise },
          { discard := 4, unit := .error .transmitBufferFull, reason := .errOk },
          { discard := 0, unit := .none, reason := .waitNoMarker }] }) := by decide
/-- V4.9: the corrupted-length hazard. -/
theorem test_drain_hazard :
    (next? (exec (.drain .rx) (holding [0xAA, 0xC2, 0x23, 0x01, 0xAA, 0xC0, 0x00, 0x00, 0x55, 0xAA,
      0xC0, 0x01, 0x00, 0x55]))).map (fun t => (t.rxbuf, t.frameOut))
      = some ([], [{ identifier := 1, addressWidth := .standard, payload := [] }]) := by decide

/-! ### Single steps: the TX agent's commands and the illegal ones -/

/-- V1.5: the identifier is truncated. -/
theorem test_encodeData :
    (next? (exec (.encodeData .tx 0x12345 false 1 [0xAB, 1, 2, 3, 4, 5, 6, 7]) State.reset)).map
      State.tx = some [0xAA, 0xC1, 0x45, 0x23, 0xAB, 0x55] := by decide
/-- V1.11. -/
theorem test_encodeData_refuses :
    (next? (exec (.encodeData .tx 1 true 9 [0, 0, 0, 0, 0, 0, 0, 0]) State.reset)).map
      (fun t => (t.tx, t.txResponses)) = some ([], [Response.plain .encLen]) := by decide
/-- V2.6. -/
theorem test_encodeConfig :
    (next? (exec (.encodeConfig .tx 250000 true true false 0xAA 0x55) State.reset)).map State.tx
      = some [0xAA, 0x13, 0x03, 0x90, 0xD0, 0x03, 0x00, 0xAA, 0x00, 0x00, 0x00, 0x55, 0x00, 0x00,
        0x00, 0x55] := by decide
/-- V7.1. -/
theorem test_reserved110 : after .rx (.reserved110 .rx) (holding [0xAA])
    = some ([0xAA], plain .badOp) := by decide
/-- V7.2. -/
theorem test_reserved111 : after .tx (.reserved111 .tx) (holding [0xAA])
    = some ([0xAA], plain .badOp) := by decide
/-! ### Single steps: the wire rows -/

/-- V3.22: dlc 15. -/
theorem test_wireDataStd :
    after .rx (.wireDataStd false 15) (holding [0xAA, 0xCF, 0x01, 0x00, 0, 1, 2, 3, 4, 5, 6, 7, 8, 9,
      10, 11, 12, 13, 14, 0x55])
      = some ([], answer 20
        (.data {
          identifier := 1
          addressWidth := .standard
          payload := [0, 1, 2, 3, 4, 5, 6, 7, 8, 9, 10, 11, 12, 13, 14] }) .dataOk) := by decide
/-- V3.24. -/
theorem test_wireDataStd_badStop :
    after .rx (.wireDataStd false 0) (holding [0xAA, 0xC0, 0x00, 0x00, 0x54])
      = some ([], answer 5 .none .dataBadStop) := by decide
/-- V3.15. -/
theorem test_wireDataExt_waits :
    after .rx (.wireDataExt false 0) (holding [0xAA, 0xE0, 0x00, 0x00, 0x00])
      = some ([0xAA, 0xE0, 0x00, 0x00, 0x00], answer 0 .none .waitData) := by decide
/-- The example of R105, as a frame. -/
theorem test_wireDataExt :
    after .rx (.wireDataExt false 0) (holding [0xAA, 0xE0, 0x78, 0x56, 0x34, 0x12, 0x55])
      = some ([], answer 7
        (.data { identifier := 0x12345678, addressWidth := .extended, payload := [] }) .dataOk) := by
  decide
/-- V3.28. -/
theorem test_wireError : (next? (exec .wireError (holding [0xAA, 0x15, 0x03, 0x55]))).map State.errOut
    = some [.busTransmitFailure] := by decide
/-- V3.30. -/
theorem test_wireError_decodeFailure :
    after .rx .wireError (holding [0xAA, 0x15, 0x05, 0x55])
      = some ([], answer 4 (.decodeFailure 0x05) .errDecodeFailure) := by decide
/-- V3.34. -/
theorem test_wireConfig : after .rx .wireConfig (holding [0xAA, 0x13, 0x05, 0x20])
    = some ([0x05, 0x20], answer 2 .none .unknownType) := by decide
/-- V3.41: the start value as a type. -/
theorem test_wireUnknown : after .rx (.wireUnknown 0xAA) (holding [0xAA, 0xAA, 0xC0, 0x00])
    = some ([0xC0, 0x00], answer 2 .none .unknownType) := by decide

/-! ### Steps, the text form and the host session -/

/-- A placed command is what the next step runs (log 6). -/
theorem test_withFetchWord_command :
    (next? (step (State.reset.withFetchWord 8 1))).map (fun t => (t.rxbuf, t.pending))
      = some ([0], []) := by decide
/-- A placed type byte is what the next step's extraction fetches (log 6): dlc 1 of zeros. -/
theorem test_withFetchWord_wire :
    (next? (step (State.reset.withFetchWord 8 0x15))).map (fun t => t.rxResponses.getLast?)
      = some (answer 4 .none .errBadStop) := by decide
/-- R78's form of V1.1. -/
theorem test_readLine :
    readLine "ENCODE_DATA id=0x00000123, ext=0, data=[11 22 33] ; V1.1"
      = some (.encodeData 0x123 false [0x11, 0x22, 0x33]) := by decide
theorem test_assemble :
    (Command.encodeData 0x123 false [0x11, 0x22, 0x33]).assemble
      = some [.encodeData .tx 0x123 false 3 [0x11, 0x22, 0x33, 0, 0, 0, 0, 0]] := by decide
/-- S7: the notification goes to the callback, the frame is returned. -/
theorem test_session_receive :
    let s := Session.onError 7 { Session.fresh Config.reference with
      block := holding [0xAA, 0x15, 0x02, 0x55, 0xAA, 0xC1, 0x45, 0x06, 0x99, 0x55] }
    let r := s.receive .zero [] none
    r.1.calls = [(7, .busOvervoltage)] ∧ r.1.block.rxbuf = []
      ∧ (match r.2 with
        | .ok f => f
        | .error _ => none)
        = some { identifier := 0x645, addressWidth := .standard, payload := [0x99] } := by decide
/-- R151's example. -/
theorem test_session_send :
    ((Session.fresh Config.reference).send
      { identifier := 0x7FF, addressWidth := .standard, payload := [] } true).1.writes
      = [{ out := [0xAA, 0xC0, 0xFF, 0x07, 0x55], ok := true }] := by decide

/-! ### Witnesses: hypotheses that can be met

One theorem per obligation that has hypotheses, at boundary values, clause by clause. -/

/-- The full buffer of V5.2. -/
def full22 : State := cap22 (List.replicate 21 0x01 ++ [0xAA])

theorem witness_ResetStateIsWellFormed :
    Config.legal { rxbufCap := none } = true ∧ Config.legal { rxbufCap := some 22 } = true
      ∧ Config.legal { rxbufCap := some 21 } = false := by decide

theorem witness_EveryStepKeepsTheInvariant :
    ∃ t, (full22.issue .rx 0b010).inv = true ∧ step (full22.issue .rx 0b010) = .next t
      ∧ t.rxbuf = [0xAA] := ⟨_, by decide, rfl, by decide⟩

theorem witness_StepRunsTheOldestCommand :
    (full22.issue .tx 0b111).pending = { port := .tx, record := 0b111 } :: []
      ∧ State.reset.pending = [] := by decide

theorem witness_NonOkStatusChangesNothing :
    ∃ t u v, exec (.push .rx 0xC0) full22 = .next t
      ∧ t.rxResponses = full22.rxResponses ++ [Response.plain .bufFull]
      ∧ exec (.encodeData .tx 1 true 9 []) full22 = .next u
      ∧ u.txResponses = full22.txResponses ++ [Response.plain .encLen]
      ∧ exec (.drain .tx) full22 = .next v
      ∧ v.txResponses = full22.txResponses ++ [Response.plain .badOp] :=
  ⟨_, _, _, rfl, by decide, rfl, by decide, rfl, by decide⟩

theorem witness_EventsAreOnlyAppended :
    ∃ t, exec (.extract .rx) (holding bytes123) = .next t
      ∧ t.history = [.frameOut frame123] := ⟨_, rfl, by decide⟩

theorem witness_ops : Record.op 0b000 = 0 ∧ Record.op 0b00000010001 = 1 ∧ Record.op 0b010 = 2
    ∧ Record.op 0b011 = 3 ∧ Record.op 0b1100 = 4 ∧ Record.op 0b1101 = 5 := by decide

theorem witness_PushAppendsFlushesOrRefuses :
    (holding []).config.rxbufCap ≠ some (holding []).rxbuf.length
      ∧ (cap22 (List.replicate 21 0xAA)).config.rxbufCap
        ≠ some (cap22 (List.replicate 21 0xAA)).rxbuf.length
      ∧ (let s := cap22 (List.replicate 22 0x01)
        s.config.rxbufCap = some s.rxbuf.length ∧ START ∉ s.rxbuf)
      ∧ full22.config.rxbufCap = some full22.rxbuf.length ∧ START ∈ full22.rxbuf := by decide

theorem witness_PushnAppendsInOrder : (holding [0xAA]).config.rxbufCap = none := by decide

/-- The relation of R132 holds of a run that ends empty. -/
theorem witness_DrainRunsTheLoopToItsEnd :
    Drains [0xAA, 0xC0, 0x00, 0x00, 0x54]
      [{ discard := 5, unit := .none, reason := .dataBadStop }] [] :=
  .more (by decide) rfl (by decide) .empty

theorem witness_FullBufferMakesProgress :
    full22.inv = true ∧ full22.config.rxbufCap = some full22.rxbuf.length
      ∧ START ∈ full22.rxbuf := by decide

theorem witness_ResyncAndLengthGate :
    START ∉ ([] : Memory) ∧ START ∉ ([0x01] : Memory) ∧ ([0x01] : Memory) ≠ []
      ∧ ([] : Memory).length < 3 ∧ ([0x7F, 0x11] : Memory).length < 3
      ∧ 3 ≤ ([0x7F, 0x11, 0x22] : Memory).length
      ∧ (tryExtractOne (START :: [0x7F, 0x11, 0x22])).toOption
        = some { discard := 2, unit := .none, reason := .unknownType } := by decide

/-- The clauses at 7 bytes of 8, at a wrong stop, and at the stop; dlc 0 and dlc 15. -/
theorem witness_DataFrameStep :
    (0xC3 : Byte) &&& 0xC0 = 0xC0 ∧ (0xFF : Byte) &&& 0xC0 = 0xC0
      ∧ 2 ≤ ([0x23, 0x01] : Memory).length
      ∧ (bytes123.take 7).length < 3 + 3 + 2
      ∧ [0xAA, 0xC0, 0x00, 0x00, (0x54 : Byte)][0 + 3 + 2 - 1]? = some 0x54
      ∧ bytes123[3 + 3 + 2 - 1]? = some 0x55
      ∧ ([0xAA, 0xFF] ++ List.replicate 19 0x00 ++ [(0x55 : Byte)])[15 + 3 + 4 - 1]?
        = some 0x55 := by decide

theorem witness_ErrorFrameStep :
    ([] : Memory).length < 2 ∧ ([0x02] : Memory).length < 2 ∧ (0x54 : Byte) ≠ 0x55
      ∧ 5 ≤ (0x05 : Byte).toNat ∧ 5 ≤ (0xFF : Byte).toNat := by decide

theorem witness_UnknownTypeStep :
    (∀ h ∈ ([0x00, 0x13, 0x14, 0x16, 0x55, 0xAA, 0xBF] : List Byte),
        h &&& 0xC0 ≠ 0xC0 ∧ h ≠ 0x15)
      ∧ (holding [0xAA, 0x7F, 0x11, 0x22]).rxbuf = 0xAA :: 0x7F :: 0x11 :: 0x22 :: [] := by decide

/-- A waiting result, a frame, a notification and a decode failure. -/
theorem witness_ExtractionBounds :
    (tryExtractOne [0xAA, 0xC0, 0x00, 0x00]).toOption
        = some { discard := 0, unit := .none, reason := .waitData }
      ∧ (tryExtractOne bytes123).toOption
        = some { discard := 8, unit := .data frame123, reason := .dataOk }
      ∧ (tryExtractOne [0xAA, 0x15, 0x04, 0x55]).toOption
        = some { discard := 4, unit := .error .transmitBufferFull, reason := .errOk }
      ∧ (tryExtractOne [0xAA, 0x15, 0x05, 0x55]).toOption
        = some { discard := 4, unit := .decodeFailure 0x05, reason := .errDecodeFailure } := by
  decide

theorem witness_PrefixStability :
    ∃ r, tryExtractOne bytes123 = .ok r ∧ 0 < r.discard := ⟨_, rfl, by decide⟩

theorem witness_RoutingKeepsTheOutputsApart :
    ∃ r, tryExtractOne (holding bytes123).rxbuf = .ok r ∧ r.unit = .data frame123 :=
  ⟨_, rfl, by decide⟩

theorem witness_WaitingExtractIsRepeatable :
    ∃ r, tryExtractOne (holding [0xAA, 0xC0]).rxbuf = .ok r ∧ r.discard = 0 := ⟨_, rfl, by decide⟩

theorem witness_HeaderBit4IsIgnored :
    (0xC0 : Byte) &&& 0xC0 = 0xC0 ∧ (0xFF : Byte) &&& 0xC0 = 0xC0
      ∧ (0 : BitVec 4).toNat ≤ 8 ∧ (8 : BitVec 4).toNat ≤ 8 := by decide

/-- Two states with the same buffer and different pasts. -/
theorem witness_ScannerHasNoHiddenState :
    agentOf (.drain .rx) = .rx ∧ (holding bytes123).rxbuf = bytes123
      ∧ (State.emit (holding bytes123) [.errOut .unknown]).rxbuf = bytes123
      ∧ (holding bytes123).config = (State.emit (holding bytes123) [.errOut .unknown]).config
      ∧ holding bytes123 ≠ State.emit (holding bytes123) [.errOut .unknown] := by decide

theorem witness_BufferIsARunOfTheStream :
    ∃ t u, exec (.push .rx 0x02) (cap22 (List.replicate 22 0x01)) = .next t ∧ t.rxbuf = [0x02]
      ∧ exec (.extract .rx) full22 = .next u ∧ u.rxbuf = [0xAA] :=
  ⟨_, _, rfl, by decide, rfl, by decide⟩

/-- A run of all three commands. -/
def stream : List Instr :=
  pushes (bytes123.take 5) ++ [.extract .rx, .drain .rx] ++ pushes (bytes123.drop 5)

theorem witness_StreamDeterminism :
    State.reset.config.rxbufCap = none ∧ stream.all isStreamCommand = true := by decide

/-- A run that fills a buffer of 22, with a start marker in it, is refused a byte, and retries it
after an EXTRACT; a stream follows. -/
def retryingStream : List Instr :=
  pushes (List.replicate 21 0x11 ++ [0xAA, 0xC0]) ++ [.extract .rx] ++ pushes [0xC0, 0, 0, 0x55]
    ++ [.extract .rx] ++ stream

/-- The refused byte is not among the taken ones, its retry is. -/
theorem witness_FiniteCapacityKeepsTheEvents :
    Config.legal { rxbufCap := some 22 } = true ∧ retryingStream.all isStreamCommand = true
      ∧ ((next? (runInstrs (retryingStream ++ [.drain .rx])
          (State.resetWith { rxbufCap := some 22 }))).map
          fun t => (t.rxResponses.any (fun v => v.status = .bufFull), t.frameOut.length,
            takenBytes retryingStream t.rxResponses))
        = some (true, 2, List.replicate 21 0x11 ++ [0xAA, 0xC0, 0, 0, 0x55] ++ bytes123) := by
  decide

theorem witness_NoiseIsRetained :
    (holding [0x01]).config.rxbufCap = none ∧ START ∉ (holding [0x01]).rxbuf
      ∧ START ∉ ([0x02, 0x55] : List Byte) := by decide

/-- V4.7. -/
theorem witness_StrayStartLosesTheFrame :
    START ∉ ([0xC0, 0x00, 0x00, 0x55] : List Byte)
      ∧ (holding [0xAA, 0xAA, 0xC0, 0x00, 0x00, 0x55]).rxbuf
        = 0xAA :: 0xAA :: 0xC0 :: 0x00 :: [0x00, 0x55] := by decide

theorem witness_RoundTripThroughTheScanner :
    (cap22 []).config.legal = true ∧ (cap22 []).rxbuf = [] ∧ (8 : BitVec 4).toNat ≤ 8
      ∧ ([1, 2, 3, 4, 5, 6, 7, 8] : List Byte).length = 8
      ∧ (0xFFFF : Word32).toNat < 2 ^ 16 := by decide

theorem witness_EncodeDataEmitsTheFrame :
    8 < (9 : BitVec 4).toNat ∧ 8 < (15 : BitVec 4).toNat ∧ (0 : BitVec 4).toNat ≤ 8
      ∧ (8 : BitVec 4).toNat ≤ 8 := by decide

/-- Also the hypotheses of EncodedIdentifierIsTruncated and of EmittedTypeBytesDecodeToTheirRows. -/
theorem witness_EncodedHeaderByte :
    (0 : BitVec 4).toNat ≤ 8 ∧ (8 : BitVec 4).toNat ≤ 8
      ∧ ((next? (exec (.encodeData .tx 0 false 8 [1, 2, 3, 4, 5, 6, 7, 8]) State.reset)).map
        fun t => t.tx[1]?) = some (some 0xC8)
      ∧ ((next? (exec (.encodeData .tx 0 true 0 [1, 2, 3, 4, 5, 6, 7, 8]) State.reset)).map
        fun t => t.tx[1]?) = some (some 0xE0) := by decide

theorem witness_TransmitAgentIsStateless :
    agentOf (.encodeConfig .tx 0 false false false 0 0) = .tx ∧ agentOf (.push .tx 0) = .tx := by
  decide

theorem witness_ReceiveAgentLeavesTheTransmitSide :
    ∃ t u, agentOf (.drain .rx) = .rx ∧ exec (.drain .rx) full22 = .next t
      ∧ agentOf .wireError = .rx ∧ exec .wireError full22 = .next u :=
  ⟨_, _, by decide, rfl, by decide, rfl⟩

/-- Two different interleavings of the same two sequences. -/
theorem witness_InterleavingIsUnobservable :
    let e : Instr := .encodeData .tx 1 false 0 [0, 0, 0, 0, 0, 0, 0, 0]
    let is : List Instr := [.push .rx 1, e, .extract .rx]
    let js : List Instr := [e, .push .rx 1, .extract .rx]
    is ≠ js ∧ is.filter (fun i => agentOf i = .rx) = js.filter (fun i => agentOf i = .rx)
      ∧ is.filter (fun i => agentOf i = .tx) = js.filter (fun i => agentOf i = .tx) := by decide

theorem witness_IllegalOpsAnswerBadOp :
    illegalAt .rx (Record.op 0b100).toNat = true ∧ illegalAt .rx (Record.op 0b111).toNat = true
      ∧ illegalAt .tx (Record.op 0b011).toNat = true
      ∧ illegalAt .tx (Record.op 0b110).toNat = true := by decide

theorem witness_TypeByteClasses :
    0xC0 ≤ (0xC0 : Byte).toNat ∧ (0xDF : Byte).toNat ≤ 0xDF ∧ 0xE0 ≤ (0xE0 : Byte).toNat
      ∧ ((0xBF : Byte).toNat < 0xC0 ∧ (0xBF : Byte) ≠ 0x15 ∧ (0xBF : Byte) ≠ 0x13) := by decide

theorem witness_ExtractRunsTheFetchedWireRow :
    (holding [0xAA, 0xC0, 0x00, 0x00]).rxbuf = 0xAA :: 0xC0 :: 0x00 :: 0x00 :: [] := by decide

theorem witness_WireRowsPassTheGateFirst :
    START ∉ (holding []).rxbuf ∧ (holding [0x01, 0xAA]).rxbuf = [0x01] ++ START :: []
      ∧ ([0x01] : Memory) ≠ [] ∧ START ∉ ([0x01] : Memory)
      ∧ (holding [0xAA, 0xC0, 0x00]).rxbuf = START :: [0xC0, 0x00]
      ∧ ([0xC0, 0x00] : Memory).length < 3 := by decide

theorem witness_WireDataRowsDecode :
    2 ≤ ([0x23, 0x01] : Memory).length
      ∧ (holding [0xAA, 0xC3, 0x23, 0x01]).rxbuf = 0xAA :: 0xC3 :: [0x23, 0x01]
      ∧ (holding [0xAA, 0xC3, 0x23, 0x01]).rxbuf.length < (3 : BitVec 4).toNat + 3 + 2
      ∧ (holding [0xAA, 0xC0, 0, 0, 0x54]).rxbuf[(0 : BitVec 4).toNat + 3 + 2 - 1]? = some 0x54
      ∧ (holding bytes123).rxbuf[(3 : BitVec 4).toNat + 3 + 2 - 1]? = some 0x55 := by decide

theorem witness_WireErrorRowDecodes :
    (holding [0xAA, 0x15, 0x04, 0x55]).rxbuf = 0xAA :: 0x15 :: 0x04 :: 0x55 :: []
      ∧ (0x54 : Byte) ≠ 0x55 ∧ (0x04 : Byte) = ErrorNotification.transmitBufferFull.code
      ∧ 5 ≤ (0x05 : Byte).toNat := by decide

theorem witness_UnrecognizedRowsDiscardTwo :
    (holding [0xAA, 0x13, 0x05, 0x20]).rxbuf = 0xAA :: 0x13 :: 0x05 :: 0x20 :: [] := by decide

/-- V2.2's frame, received. -/
theorem witness_ConfigurationFrameIsUnrecognized :
    ∃ t, exec (.encodeConfig .tx 0 false false false 0 0) State.reset = .next t
      ∧ t.tx = State.reset.tx ++ ([0xAA, 0x13] ++ List.replicate 13 0 ++ [0x55])
      ∧ (holding ([0xAA, 0x13] ++ List.replicate 13 0 ++ [0x55])).rxbuf
        = ([0xAA, 0x13] ++ List.replicate 13 0 ++ [0x55]) ++ [] := ⟨_, rfl, by decide⟩

theorem witness_DecodeOfEncodeIsTheInstruction :
    (Instr.encodeData .tx 0xFFFFFFFF true 15 [255, 0, 255, 0, 255, 0, 255, 0]).wf = true
      ∧ (Instr.encodeConfig .tx 1 true false true 2 3).wf = true
      ∧ (Instr.wireUnknown 0xAA).wf = true := by decide

theorem witness_DecoderAnswersWellFormed :
    ∃ i j, decode .wire [0xAA] = .ok i ∧ decode (.port .tx) (List.replicate 13 0xFF) = .ok j
      ∧ i = .wireUnknown 0xAA ∧ j = .reserved111 .tx := ⟨_, _, rfl, rfl, by decide, by decide⟩

/-- A session whose block holds noise, a notification, then given bytes. -/
def sessionBehind (bs : List Byte) : Session :=
  { Session.fresh Config.reference with block := holding ([0x10, 0xAA, 0x15, 0x02, 0x55] ++ bs) }

/-- A frame behind noise and a notification. -/
theorem witness_ReceiveReturnsTheBufferedFrame :
    ∃ rs r, (sessionBehind bytes123).backlog = []
      ∧ Passes (sessionBehind bytes123).block.rxbuf rs bytes123 ∧ rs.length = 2
      ∧ tryExtractOne bytes123 = .ok r ∧ r.unit = .data frame123 :=
  ⟨_, _, by decide,
    .step rfl (by decide) (fun _ => nofun) (.step rfl (by decide) (fun _ => nofun) (.done _)), rfl, rfl, by decide⟩

/-- A frame that comes in two reads behind a notification, and one that does not come whole. -/
theorem witness_ReceivePushesOneBurst :
    ∃ rs w r r', (sessionBehind []).backlog = []
      ∧ (sessionBehind []).block.config.rxbufCap = none
      ∧ Passes (sessionBehind []).block.rxbuf rs [] ∧ tryExtractOne [] = .ok w ∧ w.discard = 0
      ∧ Timeout.isPoll .none = false
      ∧ blockingRead .none [some [], some (bytes123.take 5)] = .bytes (bytes123.take 5)
      ∧ Passes ([] ++ bytes123.take 5 ++ bytes123.drop 5) [] bytes123
      ∧ tryExtractOne bytes123 = .ok r ∧ r.unit = .data frame123
      ∧ Passes ([] ++ bytes123.take 5 ++ []) [] (bytes123.take 5)
      ∧ tryExtractOne (bytes123.take 5) = .ok r' ∧ r'.discard = 0 :=
  ⟨_, _, _, _, by decide, by decide,
    .step rfl (by decide) (fun _ => nofun) (.step rfl (by decide) (fun _ => nofun) (.done _)), rfl, by decide,
    by decide, by decide, .done _, rfl, by decide, .done _, rfl, by decide⟩

/-- How a receive of a session that waits for the rest of a frame ends: in a failure, or otherwise. -/
def receiveFails (timeout : Timeout) (ticks : List Arrival) (burst : Option (List Byte)) : Bool :=
  match ((sessionBehind [0xAA]).receive timeout ticks burst).2 with
  | .error e => e == .transportFailure
  | .ok _ => false

/-- Also a failure in the last tick of a wait, one after it, and a burst that fails after an expired
wait. -/
theorem witness_ReceiveWaitsAsItsTimeoutSays :
    (∃ rs w, (sessionBehind [0xAA]).backlog = []
      ∧ Passes (sessionBehind [0xAA]).block.rxbuf rs [0xAA] ∧ tryExtractOne [0xAA] = .ok w
      ∧ w.discard = 0)
      ∧ receiveFails (.duration 2) [some [], none] (some []) = true
      ∧ receiveFails (.duration 1) [some [], none] (some []) = false
      ∧ receiveFails (.duration 1) [] none = true :=
  ⟨⟨_, _, by decide,
    .step rfl (by decide) (fun _ => nofun) (.step rfl (by decide) (fun _ => nofun) (.done _)), rfl,
    by decide⟩, by decide, by decide, by decide⟩

/-- R157: without a timeout a silent read has not returned; a duration expires; a byte in its last
tick still counts. -/
theorem test_blockingRead :
    blockingRead .none [some [], some []] = .waiting
      ∧ blockingRead .none [some [], some [0xAA]] = .bytes [0xAA]
      ∧ blockingRead (.duration 1) [some [], some [0xAA]] = .bytes []
      ∧ blockingRead (.duration 2) [some [], some [0xAA]] = .bytes [0xAA]
      ∧ blockingRead (.duration 1) [none] = .failed := by decide

theorem witness_PollOfAnEmptyBufferReturnsNothing :
    (Session.fresh Config.reference).backlog = []
      ∧ (Session.fresh Config.reference).block.rxbuf = [] := by decide

theorem witness_SendWritesOneFrame :
    let f (n : Nat) : CanFrame :=
      { identifier := 1, addressWidth := .standard, payload := List.replicate n 0 }
    (f 0).payload.length ≤ 8 ∧ (f 8).payload.length ≤ 8 ∧ 8 < (f 9).payload.length
      ∧ 8 < (f 16).payload.length := by decide

theorem witness_NotificationsReachTheRegisteredSink :
    let s := { Session.fresh Config.reference with block := holding [0xAA, 0x15, 0x02, 0x55] }
    ∃ r, tryExtractOne s.block.rxbuf = .ok r ∧ r.unit = .error .busOvervoltage ∧ s.sink = none :=
  ⟨_, rfl, by decide, by decide⟩

end Sys2Proof.Tests
end

/-!
PROOFS of the scope family: the power-on state, the fetch of a step, and the two agents of R9.
The development rests on two rules that say once what an instruction of each agent does to any
state, `exec_of_agent_tx` and `exec_of_agent_rx`, both given by the state primitives of R13.
-/

namespace Sys2Proof.Machine

/-! ### State primitives that change nothing -/

@[simp] theorem setRxbuf_self (s : State) : s.setRxbuf s.rxbuf = s := rfl

@[simp] theorem setRxbuf_emit (s : State) (m : Memory) (es : List Event) :
    (s.emit es).setRxbuf m = (s.setRxbuf m).emit es := rfl

@[simp] theorem emit_emit (s : State) (es es' : List Event) :
    (s.emit es).emit es' = s.emit (es ++ es') := by
  simp [State.emit]

/-! ### Events that are not on `tx`, and events that are on `tx` alone (R28) -/

/-- Events of the receive side: none of them puts a byte on `tx`. -/
def NoTx (es : List Event) : Prop := ∀ e ∈ es, e.txByte = none

theorem noTx_nil : NoTx [] := by simp [NoTx]

theorem NoTx.append {es es' : List Event} (h : NoTx es) (h' : NoTx es') : NoTx (es ++ es') := by
  intro e he
  exact (List.mem_append.mp he).elim (h e) (h' e)

/-- A unit is routed to `frame_out` or `err_out` or nowhere (R130). -/
theorem noTx_route (u : ScanUnit) : NoTx (route u) := by
  cases u <;> simp [NoTx, route]

theorem emit_tx_of_noTx {es : List Event} (h : NoTx es) (s : State) : (s.emit es).tx = s.tx := by
  rw [emit_tx, List.filterMap_eq_nil_iff.mpr h, List.append_nil]

@[simp] theorem respond_tx (s : State) (p : Port) (v : Response) : (s.respond p v).tx = s.tx :=
  tx_of_history (by simp)

@[simp] theorem respond_frameOut (s : State) (p : Port) (v : Response) :
    (s.respond p v).frameOut = s.frameOut :=
  frameOut_of_history (by simp)

@[simp] theorem respond_errOut (s : State) (p : Port) (v : Response) :
    (s.respond p v).errOut = s.errOut :=
  errOut_of_history (by simp)

@[simp] theorem setRxbuf_tx (s : State) (m : Memory) : (s.setRxbuf m).tx = s.tx := rfl

@[simp] theorem setRxbuf_frameOut (s : State) (m : Memory) :
    (s.setRxbuf m).frameOut = s.frameOut := rfl

@[simp] theorem setRxbuf_errOut (s : State) (m : Memory) : (s.setRxbuf m).errOut = s.errOut := rfl

/-- Bytes emitted on `tx` leave `frame_out` alone. -/
@[simp] theorem emit_map_tx_frameOut (s : State) (out : List Byte) :
    (s.emit (out.map Event.tx)).frameOut = s.frameOut := by
  simp [emit_frameOut, List.filterMap_map]

/-- Bytes emitted on `tx` leave `err_out` alone. -/
@[simp] theorem emit_map_tx_errOut (s : State) (out : List Byte) :
    (s.emit (out.map Event.tx)).errOut = s.errOut := by
  simp [emit_errOut, List.filterMap_map]

/-! ### The extraction function always answers (R41) -/

/-- Steps 1 and 2 answer whenever step 3 answers on the buffers that pass them: their one read is of
a buffer that is not empty. -/
theorem scanGate_answers {m : Memory} {go : Except Fault ExtractResult}
    (h : ∀ t a b rest, m = START :: t :: a :: b :: rest → ∃ r, go = .ok r) :
    ∃ r, scanGate m go = .ok r := by
  obtain hno | ⟨noise, rest, hne, hn, rfl⟩ | ⟨rest, rfl, hlen⟩ | ⟨t, a, b, rest, rfl⟩ :=
    buffer_forms m
  · exact ⟨_, scanGate_noMarker hno go⟩
  · exact ⟨_, scanGate_noise hne hn rest go⟩
  · exact ⟨_, scanGate_short hlen go⟩
  · rw [scanGate_pass (by simp)]
    exact h t a b rest rfl

theorem scanData_answers (h : Byte) (m : Memory) : ∃ r, scanData h m = .ok r := by
  obtain ⟨-, hr⟩ | ⟨_, -, -, hr⟩ | ⟨-, hr⟩ := scanData_cases h m
  all_goals exact ⟨_, hr⟩

theorem scanError_answers (m : Memory) : ∃ r, scanError m = .ok r := by
  match m with
  | [] | [_] | [_, _] | [_, _, _] => exact ⟨waitFor .waitShort, rfl⟩
  | s :: t :: code :: last :: rest =>
    rw [scanError_eq]
    split_ifs with hstop
    · obtain ⟨e, hd, -⟩ | ⟨hd, -⟩ := decodeError_cases code <;> simp [hd]
    · exact ⟨_, rfl⟩

theorem scanType_answers (h : Byte) (m : Memory) : ∃ r, scanType h m = .ok r := by
  unfold scanType
  cases classify h with
  | data => exact scanData_answers h m
  | error => exact scanError_answers m
  | unrecognized => exact ⟨_, rfl⟩

theorem tryExtractOne_answers (m : Memory) : ∃ r, tryExtractOne m = .ok r := by
  refine scanGate_answers ?_
  rintro t a b rest rfl
  exact scanType_answers t _

/-! ### What a TX instruction does (R9, R24, R77, R100, R103) -/

theorem badOp_eq_emit_nil (p : Port) (s : State) :
    badOp p s = .next ((s.emit []).respond p (Response.plain .badOp)) := by
  simp [badOp]

/-- An instruction of the TX agent emits bytes on `tx` and answers at the TX port; neither the bytes
nor the response depends on the state. -/
theorem exec_of_agent_tx {i : Instr} (h : agentOf i = .tx) :
    ∃ (out : List Byte) (v : Response), ∀ s : State,
      exec i s = .next ((s.emit (out.map Event.tx)).respond .tx v) := by
  cases i <;> cases h
  case encodeData id ext dlc payload =>
    by_cases hlen : dlc.toNat > ENC_MAX_PAYLOAD
    · refine ⟨[], Response.plain .encLen, fun s => ?_⟩
      simp [exec, execEncodeData, onPort_own, hlen]
    · refine ⟨encodeDataFrame id ext dlc payload, Response.plain .ok, fun s => ?_⟩
      simp [exec, execEncodeData, onPort_own, hlen, transmit]
  case encodeConfig bitrate term silent erpt filterId filterMask =>
    exact ⟨encodeConfiguration bitrate term silent erpt filterId filterMask, Response.plain .ok,
      fun s => rfl⟩
  all_goals exact ⟨[], Response.plain .badOp, fun s => badOp_eq_emit_nil .tx s⟩

/-! ### What an RX instruction does (R9, R22) -/

/-- Instruction `i`, run with parameter `c` and buffer `m`, leaves the buffer `m'`, emits `es` and
answers `v` at the RX port, whatever else the state holds. -/
def RunsAtRx (i : Instr) (c : Config) (m m' : Memory) (es : List Event) (v : Response) : Prop :=
  ∀ s : State, s.config = c → s.rxbuf = m →
    exec i s = .next (((s.setRxbuf m').emit es).respond .rx v)

theorem runsAtRx_of_badOp {i : Instr} (h : ∀ s, exec i s = badOp .rx s) (c : Config) (m : Memory) :
    RunsAtRx i c m m [] (Response.plain .badOp) := by
  rintro s rfl rfl
  rw [h, badOp_eq_emit_nil, setRxbuf_self]

/-- An instruction that applies an extraction step of the buffer and answers its result (R129). -/
theorem runsAtRx_of_extractWith {i : Instr} {scan : Memory → Except Fault ExtractResult}
    {m : Memory} {r : ExtractResult} (h : ∀ s, exec i s = extractWith (scan s.rxbuf) s)
    (hr : scan m = .ok r) (c : Config) :
    RunsAtRx i c m (m.drop r.discard) (route r.unit) { status := .ok, body := .result r } := by
  rintro s rfl rfl
  rw [h, hr]
  rfl

/-- A wire row: steps 1 and 2, then its branch, applied as one extraction step (R123, R129). -/
theorem exists_runsAtRx_of_wireStep {i : Instr} {branch : Memory → Except Fault ExtractResult}
    (h : ∀ s, exec i s = wireStep branch s) (hb : ∀ m, ∃ r, branch m = .ok r) (c : Config)
    (m : Memory) : ∃ m' es v, NoTx es ∧ RunsAtRx i c m m' es v := by
  obtain ⟨r, hr⟩ := scanGate_answers (m := m) fun _ _ _ _ _ => hb m
  exact ⟨_, _, _, noTx_route _,
    runsAtRx_of_extractWith (scan := fun m => scanGate m (branch m)) h hr c⟩

theorem runsAtRx_reset (c : Config) (m : Memory) :
    RunsAtRx (.reset .rx) c m [] [] (Response.plain .ok) := by
  rintro s rfl rfl
  simp [exec, execReset, onPort_own, okRx]

/-- PUSH: refused by a full buffer with a start marker in it, else the byte is appended, to the
flushed buffer if that was full (R120, R121). -/
theorem exists_runsAtRx_push (data : Byte) (c : Config) (m : Memory) :
    ∃ m' v, RunsAtRx (.push .rx data) c m m' [] v := by
  by_cases hfull : c.rxbufCap = some m.length
  · by_cases hstart : START ∈ m
    · refine ⟨m, Response.plain .bufFull, ?_⟩
      rintro s rfl rfl
      simp [exec, execPush, onPort_own, pushFull, hfull, hstart]
    · refine ⟨[data], Response.plain .ok, ?_⟩
      rintro s rfl rfl
      simp [exec, execPush, onPort_own, pushFull, okRx, State.append, hfull, hstart]
  · refine ⟨m ++ [data], Response.plain .ok, ?_⟩
    rintro s rfl rfl
    simp [exec, execPush, onPort_own, okRx, State.append, hfull]

/-- DRAIN's loop answers, and what it does to the buffer, emits and collects depends on the buffer
alone (R22, R132). -/
theorem drainLoop_answers (fuel : Nat) (m : Memory) :
    ∃ m' es rs, NoTx es ∧ ∀ s : State, s.rxbuf = m →
      drainLoop fuel s = .ok ((s.setRxbuf m').emit es, rs) := by
  induction fuel generalizing m with
  | zero =>
    refine ⟨m, [], [], noTx_nil, ?_⟩
    rintro s rfl
    simp [drainLoop]
  | succ fuel ih =>
    by_cases hempty : m = []
    · refine ⟨m, [], [], noTx_nil, ?_⟩
      rintro s rfl
      simp [drainLoop_empty hempty]
    · obtain ⟨r, hr⟩ := tryExtractOne_answers m
      by_cases hwait : r.discard = 0
      · refine ⟨m.drop r.discard, route r.unit, [r], noTx_route _, ?_⟩
        rintro s rfl
        rw [drainLoop_wait hempty hr hwait]
        rfl
      · obtain ⟨m', es, rs, hes, hloop⟩ := ih (m.drop r.discard)
        refine ⟨m', route r.unit ++ es, r :: rs, (noTx_route _).append hes, ?_⟩
        rintro s rfl
        rw [drainLoop_more hempty hr hwait (hloop (s.applyResult r) rfl)]
        simp [State.applyResult, State.discard]

theorem exists_runsAtRx_drain (c : Config) (m : Memory) :
    ∃ m' es v, NoTx es ∧ RunsAtRx (.drain .rx) c m m' es v := by
  obtain ⟨m', es, rs, hes, hloop⟩ := drainLoop_answers m.length m
  refine ⟨m', es, { status := .ok, body := .results rs }, hes, ?_⟩
  rintro s rfl rfl
  simp [exec, execDrain, onPort_own, hloop s rfl]

/-- An instruction of the RX agent changes the buffer, emits nothing on `tx` and answers at the RX
port; what it does is fixed by the parameter and the buffer. -/
theorem exec_of_agent_rx {i : Instr} (h : agentOf i = .rx) (c : Config) (m : Memory) :
    ∃ m' es v, NoTx es ∧ RunsAtRx i c m m' es v := by
  cases i
  case reset => cases h; exact ⟨_, _, _, noTx_nil, runsAtRx_reset c m⟩
  case push data =>
    cases h
    obtain ⟨m', v, hrun⟩ := exists_runsAtRx_push data c m
    exact ⟨m', [], v, noTx_nil, hrun⟩
  case extract =>
    cases h
    obtain ⟨r, hr⟩ := tryExtractOne_answers m
    exact ⟨_, _, _, noTx_route _, runsAtRx_of_extractWith (fun _ => rfl) hr c⟩
  case drain => cases h; exact exists_runsAtRx_drain c m
  case wireDataStd | wireDataExt =>
    exact exists_runsAtRx_of_wireStep (fun _ => rfl) (scanData_answers _) c m
  case wireError => exact exists_runsAtRx_of_wireStep (fun _ => rfl) scanError_answers c m
  case wireConfig | wireUnknown =>
    exact exists_runsAtRx_of_wireStep (branch := fun _ => scanUnknown) (fun _ => rfl)
      (fun _ => ⟨_, rfl⟩) c m
  case encodeData | encodeConfig | reserved110 | reserved111 =>
    cases h
    exact ⟨_, _, _, noTx_nil, runsAtRx_of_badOp (fun _ => rfl) c m⟩

theorem exec_answers (i : Instr) (s : State) : ∃ t, exec i s = .next t := by
  cases h : agentOf i with
  | rx =>
    obtain ⟨m', es, v, -, hrun⟩ := exec_of_agent_rx h s.config s.rxbuf
    exact ⟨_, hrun s rfl rfl⟩
  | tx =>
    obtain ⟨out, v, hrun⟩ := exec_of_agent_tx h
    exact ⟨_, hrun s⟩

/-! ### What each agent's side of the state is (R9) -/

/-- What an agent reads, changes and answers. -/
abbrev Side : Port → Type
  | .rx => Config × Memory × List CanFrame × List ErrorNotification × List Response
  | .tx => List Byte × List Response

/-- The RX agent's side is the buffer with its parameter, `frame_out`, `err_out` and the RX
responses; the TX agent's side is `tx` and the TX responses. -/
def State.side (s : State) : (p : Port) → Side p
  | .rx => (s.config, s.rxbuf, s.frameOut, s.errOut, s.rxResponses)
  | .tx => (s.tx, s.txResponses)

theorem side_rx_eq_iff {s t : State} : s.side .rx = t.side .rx ↔
    s.config = t.config ∧ s.rxbuf = t.rxbuf ∧ s.frameOut = t.frameOut ∧ s.errOut = t.errOut
      ∧ s.rxResponses = t.rxResponses := by
  simp [State.side]

theorem side_tx_eq_iff {s t : State} :
    s.side .tx = t.side .tx ↔ s.tx = t.tx ∧ s.txResponses = t.txResponses := by
  simp [State.side]

/-- An instruction leaves the other agent's side alone. -/
theorem exec_side_of_ne {i : Instr} {p : Port} {s t : State} (hp : agentOf i ≠ p)
    (h : exec i s = .next t) : t.side p = s.side p := by
  cases hi : agentOf i with
  | rx =>
    obtain rfl : p = .tx := by cases p <;> simp_all
    obtain ⟨m', es, v, hes, hrun⟩ := exec_of_agent_rx hi s.config s.rxbuf
    obtain rfl := Host.Outcome.next.inj ((hrun s rfl rfl).symm.trans h)
    exact side_tx_eq_iff.mpr (by simp [emit_tx_of_noTx hes])
  | tx =>
    obtain rfl : p = .rx := by cases p <;> simp_all
    obtain ⟨out, v, hrun⟩ := exec_of_agent_tx hi
    obtain rfl := Host.Outcome.next.inj ((hrun s).symm.trans h)
    exact side_rx_eq_iff.mpr (by simp)

/-- What an instruction makes of its own agent's side depends on that side alone. -/
theorem exec_side_congr {i : Instr} {s s' t t' : State}
    (hs : s.side (agentOf i) = s'.side (agentOf i)) (h : exec i s = .next t)
    (h' : exec i s' = .next t') : t.side (agentOf i) = t'.side (agentOf i) := by
  cases hi : agentOf i with
  | rx =>
    rw [hi] at hs
    obtain ⟨hconfig, hbuf, hframe, herr, hresp⟩ := side_rx_eq_iff.mp hs
    obtain ⟨m', es, v, -, hrun⟩ := exec_of_agent_rx hi s.config s.rxbuf
    obtain rfl := Host.Outcome.next.inj ((hrun s rfl rfl).symm.trans h)
    obtain rfl := Host.Outcome.next.inj ((hrun s' hconfig.symm hbuf.symm).symm.trans h')
    exact side_rx_eq_iff.mpr
      (by simp [emit_frameOut, emit_errOut, hconfig, hframe, herr, hresp])
  | tx =>
    rw [hi] at hs
    obtain ⟨htx, hresp⟩ := side_tx_eq_iff.mp hs
    obtain ⟨out, v, hrun⟩ := exec_of_agent_tx hi
    obtain rfl := Host.Outcome.next.inj ((hrun s).symm.trans h)
    obtain rfl := Host.Outcome.next.inj ((hrun s').symm.trans h')
    exact side_tx_eq_iff.mpr (by simp [emit_tx, htx, hresp])

/-! ### Runs -/

theorem runInstrs_cons_of_next {i : Instr} {s t : State} (h : exec i s = .next t)
    (is : List Instr) : runInstrs (i :: is) s = runInstrs is t := by
  simp [runInstrs, h]

theorem runInstrs_answers (is : List Instr) (s : State) : ∃ t, runInstrs is s = .next t := by
  induction is generalizing s with
  | nil => exact ⟨s, rfl⟩
  | cons i is ih =>
    obtain ⟨t, ht⟩ := exec_answers i s
    rw [runInstrs_cons_of_next ht]
    exact ih t

/-- A run makes of an agent's side what that agent's instructions alone make of it (R50). -/
theorem runInstrs_side_eq_filter (p : Port) {is : List Instr} {s s' t t' : State}
    (hs : s.side p = s'.side p) (h : runInstrs is s = .next t)
    (h' : runInstrs (is.filter fun i => agentOf i = p) s' = .next t') :
    t.side p = t'.side p := by
  induction is generalizing s s' with
  | nil =>
    obtain rfl := Host.Outcome.next.inj h
    obtain rfl := Host.Outcome.next.inj h'
    exact hs
  | cons i is ih =>
    obtain ⟨u, hu⟩ := exec_answers i s
    rw [runInstrs_cons_of_next hu] at h
    by_cases hp : agentOf i = p
    · obtain ⟨u', hu'⟩ := exec_answers i s'
      rw [List.filter_cons_of_pos (by simpa using hp), runInstrs_cons_of_next hu'] at h'
      subst hp
      exact ih (exec_side_congr hs hu hu') h h'
    · rw [List.filter_cons_of_neg (by simpa using hp)] at h'
      exact ih ((exec_side_of_ne hp hu).trans hs) h h'

/-- Two sequences with the same instructions of an agent, in order, agree on that agent's side. -/
theorem runInstrs_side_congr {p : Port} {is js : List Instr} {s t u : State}
    (hf : is.filter (fun i => agentOf i = p) = js.filter (fun i => agentOf i = p))
    (ht : runInstrs is s = .next t) (hu : runInstrs js s = .next u) : t.side p = u.side p := by
  obtain ⟨w, hw⟩ := runInstrs_answers (is.filter fun i => agentOf i = p) s
  have hw' : runInstrs (js.filter fun i => agentOf i = p) s = .next w := hf ▸ hw
  exact (runInstrs_side_eq_filter p rfl ht hw).trans (runInstrs_side_eq_filter p rfl hu hw').symm

/-! ### Fetch and power-on -/

theorem step_of_pending_cons {s : State} {c : Issue} {rest : List Issue}
    (h : s.pending = c :: rest) :
    step s = exec (decodeRecord c.port c.record) (s.setPending rest) := by
  simp [step, fetch, h]

theorem step_of_pending_nil {s : State} (h : s.pending = []) : step s = .next s := by
  simp [step, fetch, h]

theorem resetWith_inv {c : Config} (h : c.legal = true) : (State.resetWith c).inv = true := by
  have hwf : Memory.wf c (State.resetWith c).rxbuf = true := memory_wf_nil c
  have hframe : (State.resetWith c).frameOut = [] := rfl
  have hrx : (State.resetWith c).rxResponses = [] := rfl
  have htx : (State.resetWith c).txResponses = [] := rfl
  have hconfig : (State.resetWith c).config = c := rfl
  simp [State.inv, hconfig, h, hwf, hframe, hrx, htx]

/-! ### The obligations -/

/-- Settles O6: the two agents' rules give the one response and the frame. -/
theorem everyInstructionAnswersOnce : Obligations.EveryInstructionAnswersOnce := by
  intro i s
  cases hi : agentOf i with
  | rx =>
    obtain ⟨m', es, v, -, hrun⟩ := exec_of_agent_rx hi s.config s.rxbuf
    exact ⟨_, v, hrun s rfl rfl, by simp⟩
  | tx =>
    obtain ⟨out, v, hrun⟩ := exec_of_agent_tx hi
    exact ⟨_, v, hrun s, by simp⟩

/-- Settles O37: the rule of the TX agent, its bytes and response chosen before the state. -/
theorem transmitAgentIsStateless : Obligations.TransmitAgentIsStateless :=
  fun _ hi => exec_of_agent_tx hi

/-- Settles O38: the TX agent's side is what an RX instruction leaves alone. -/
theorem receiveAgentLeavesTheTransmitSide : Obligations.ReceiveAgentLeavesTheTransmitSide :=
  fun _ _ _ hi h => side_tx_eq_iff.mp (exec_side_of_ne (p := .tx) (by simp [hi]) h)

/-- Settles O39: each agent's side after a run is what its own instructions alone make of it. -/
theorem interleavingIsUnobservable : Obligations.InterleavingIsUnobservable := by
  intro is js s hrx htx
  obtain ⟨t, ht⟩ := runInstrs_answers is s
  obtain ⟨u, hu⟩ := runInstrs_answers js s
  obtain ⟨-, hbuf, hframe, herr, hrxr⟩ := side_rx_eq_iff.mp (runInstrs_side_congr hrx ht hu)
  obtain ⟨htxb, htxr⟩ := side_tx_eq_iff.mp (runInstrs_side_congr htx ht hu)
  exact ⟨t, u, ht, hu, hbuf, htxb, hframe, herr, hrxr, htxr⟩

/-- Settles O2: the reference configuration is one of the legal ones. -/
theorem resetStateIsWellFormed : Obligations.ResetStateIsWellFormed :=
  ⟨resetWith_inv rfl, fun _ => resetWith_inv⟩

/-- Settles O5: the two answers of `fetch`. -/
theorem stepRunsTheOldestCommand : Obligations.StepRunsTheOldestCommand :=
  ⟨fun _ _ _ _ => step_of_pending_cons, fun _ => step_of_pending_nil⟩

end Sys2Proof.Machine

/-!
PROOFS of the state family: what every step keeps. The development rests on three facts: every answer
of the scanner is lawful (`tryExtractOne_lawful`), what an RX instruction can do to a state is one of
four effects (`exec_rx_effect`), and each state primitive of R13 keeps the invariant.
-/

namespace Sys2Proof.Machine

/-! ### Every answer of the scanner is lawful (R25, R122, R131) -/

theorem headerDlc_le (h : Byte) : headerDlc h ≤ DEC_MAX_DLC := by
  rw [headerDlc, BitVec.toNat_and]
  exact Nat.and_le_right

/-- R70: the shortest data frame has 5 bytes. -/
theorem five_le_totalLength (h : Byte) : 5 ≤ totalLength h := by
  cases hext : headerExt h <;> simp [totalLength, idWidth, hext]

/-- R70: the longest data frame has 22 bytes. -/
theorem totalLength_le (h : Byte) : totalLength h ≤ MAX_FRAME_LEN := by
  have hdlc : headerDlc h ≤ 15 := headerDlc_le h
  cases hext : headerExt h <;> simp [totalLength, idWidth, hext, MAX_FRAME_LEN] <;> omega

@[simp] theorem decodeDataFrame_extended (h : Byte) (idBytes payload : List Byte) :
    ((decodeDataFrame h idBytes payload).addressWidth == .extended) = headerExt h := by
  cases hext : headerExt h <;> simp [decodeDataFrame, hext]

/-- A frame decoded from as many payload bytes as its header declares is as long on the wire as the
header says (R62, R126). -/
theorem decodeDataFrame_wireLength {h : Byte} {payload : List Byte} (idBytes : List Byte)
    (hp : payload.length = headerDlc h) :
    (decodeDataFrame h idBytes payload).wireLength = totalLength h := by
  rw [CanFrame.wireLength, decodeDataFrame_extended, totalLength, ← hp]
  rfl

/-- R25: the identifier of a standard frame is read from two bytes, so it is below 2^16. -/
theorem decodeDataFrame_decoded {h : Byte} {idBytes payload : List Byte}
    (hid : idBytes.length ≤ idWidth (headerExt h)) (hp : payload.length = headerDlc h) :
    (decodeDataFrame h idBytes payload).decoded = true := by
  have hpayload : (decodeDataFrame h idBytes payload).payload.length ≤ DEC_MAX_DLC :=
    hp.trans_le (headerDlc_le h)
  rw [CanFrame.decoded, decodeDataFrame_extended, decide_eq_true hpayload, Bool.true_and]
  cases hext : headerExt h with
  | true => rfl
  | false =>
    have hlen : idBytes.length ≤ 2 := by simpa [hext, idWidth] using hid
    have hlt : fromLE idBytes < 2 ^ 16 :=
      (fromLE_lt idBytes).trans_le (Nat.pow_le_pow_right (by decide) hlen)
    have : (BitVec.ofNat 32 (fromLE idBytes)).toNat < 2 ^ 16 :=
      (Nat.mod_le _ _).trans_lt hlt
    simpa [decodeDataFrame] using this

/-- Steps 1 and 2 answer lawfully, or answer what step 3 does (R124, R125). -/
theorem scanGate_lawful {m : Memory} {go : Except Fault ExtractResult} {r : ExtractResult}
    (hgo : ∀ r, go = .ok r → r.lawful = true) (h : scanGate m go = .ok r) : r.lawful = true := by
  obtain hno | ⟨noise, rest, hne, hn, rfl⟩ | ⟨rest, rfl, hlen⟩ | ⟨t, a, b, rest, rfl⟩ :=
    buffer_forms m
  · rw [scanGate_noMarker hno] at h
    cases h; rfl
  · rw [scanGate_noise hne hn] at h
    cases h
    exact decide_eq_true (List.length_pos_iff.mpr hne)
  · rw [scanGate_short hlen] at h
    cases h; rfl
  · rw [scanGate_pass (by simp)] at h
    exact hgo r h

theorem scanData_lawful {h : Byte} {m : Memory} {r : ExtractResult} (hr : scanData h m = .ok r) :
    r.lawful = true := by
  obtain ⟨-, heq⟩ | ⟨_, -, -, heq⟩ | ⟨hstop, heq⟩ := scanData_cases h m <;>
    obtain rfl := Except.ok.inj (heq.symm.trans hr)
  · rfl
  · simp [ExtractResult.lawful, skip, five_le_totalLength, totalLength_le]
  · have hlen := (List.getElem?_eq_some_iff.mp hstop).1
    have hp : ((m.drop (2 + idWidth (headerExt h))).take (headerDlc h)).length = headerDlc h := by
      simp only [totalLength] at hlen
      simp only [List.length_take, List.length_drop]
      omega
    simp [ExtractResult.lawful, decodeDataFrame_wireLength _ hp,
      decodeDataFrame_decoded (List.length_take_le _ _) hp]

theorem scanError_lawful {m : Memory} {r : ExtractResult} (h : scanError m = .ok r) :
    r.lawful = true := by
  match m with
  | [] | [_] | [_, _] | [_, _, _] => cases h; rfl
  | s :: t :: code :: last :: rest =>
    rw [scanError_eq] at h
    split_ifs at h with hstop
    · obtain ⟨e, hd, -⟩ | ⟨hd, hcode⟩ := decodeError_cases code <;> rw [hd] at h <;> cases h
      · rfl
      · simp [ExtractResult.lawful, ERROR_FRAME_LEN, hcode]
    · cases h; rfl

theorem scanUnknown_lawful {r : ExtractResult} (h : scanUnknown = .ok r) : r.lawful = true := by
  cases h; rfl

theorem scanType_lawful {h : Byte} {m : Memory} {r : ExtractResult} (hr : scanType h m = .ok r) :
    r.lawful = true := by
  unfold scanType at hr
  cases hclass : classify h <;> rw [hclass] at hr
  case data => exact scanData_lawful hr
  case error => exact scanError_lawful hr
  case unrecognized => exact scanUnknown_lawful hr

/-- Whatever the buffer, an extraction step answers a lawful result. -/
theorem tryExtractOne_lawful {m : Memory} {r : ExtractResult} (h : tryExtractOne m = .ok r) :
    r.lawful = true := by
  refine scanGate_lawful (fun r hgo => ?_) h
  cases htype : memRead m 1 with
  | error f => simp [htype, bind, Except.bind] at hgo
  | ok t =>
    rw [htype] at hgo
    exact scanType_lawful hgo

/-! ### Results applied one after the other (R129, R132) -/

/-- DRAIN's loop applies the results it collects, each of them lawful. -/
theorem drainLoop_applies {fuel : Nat} {s t : State} {rs : List ExtractResult}
    (h : drainLoop fuel s = .ok (t, rs)) :
    t = rs.foldl State.applyResult s ∧ rs.all ExtractResult.lawful = true := by
  induction fuel generalizing s rs with
  | zero => cases h; exact ⟨rfl, rfl⟩
  | succ fuel ih =>
    by_cases hempty : s.rxbuf = []
    · rw [drainLoop_empty hempty] at h
      cases h; exact ⟨rfl, rfl⟩
    · obtain ⟨r, hr⟩ := tryExtractOne_answers s.rxbuf
      have hlawful := tryExtractOne_lawful hr
      by_cases hwait : r.discard = 0
      · rw [drainLoop_wait hempty hr hwait] at h
        cases h; exact ⟨rfl, by simp [hlawful]⟩
      · obtain ⟨m', es, rs', -, hloop⟩ := drainLoop_answers fuel (s.applyResult r).rxbuf
        have htail := hloop _ rfl
        rw [drainLoop_more hempty hr hwait htail] at h
        cases h
        obtain ⟨ht, hrs⟩ := ih htail
        exact ⟨ht, by simp [hlawful, hrs]⟩

/-- Applied results take bytes from the front of the buffer only (R21). -/
theorem foldl_applyResult_suffix (rs : List ExtractResult) (s : State) :
    (rs.foldl State.applyResult s).rxbuf <:+ s.rxbuf := by
  induction rs generalizing s with
  | nil => exact List.suffix_rfl
  | cons r rs ih => exact (ih (s.applyResult r)).trans (List.drop_suffix _ _)

/-! ### What an RX instruction can do to a state -/

/-- The four effects an instruction of the RX agent can have on `s`. -/
inductive RxEffect (i : Instr) (s : State) : State → Prop where
  /-- The results the response carries were applied; a refusal carries none (R77, R121,
  R129, R132). -/
  | extracted (v : Response) (lawful : v.lawfulAt .rx = true) :
      RxEffect i s ((v.extractions.foldl State.applyResult s).respond .rx v)
  /-- The buffer was cleared (R140). -/
  | cleared : RxEffect i s ((s.setRxbuf []).respond .rx (Response.plain .ok))
  /-- The pushed byte was appended to a buffer with room for it (R120). -/
  | appended (data : Byte) (pushed : pushedBytes [i] = [data])
      (room : s.config.rxbufCap ≠ some s.rxbuf.length) :
      RxEffect i s ((s.append data).respond .rx (Response.plain .ok))
  /-- The pushed byte was put into the flushed buffer (R121). -/
  | flushed (data : Byte) (pushed : pushedBytes [i] = [data]) :
      RxEffect i s ((s.setRxbuf [data]).respond .rx (Response.plain .ok))

theorem rxEffect_of_badOp {i : Instr} {s t : State} (h : badOp .rx s = .next t) :
    RxEffect i s t := by
  cases h; exact .extracted (Response.plain .badOp) rfl

theorem rxEffect_of_extractWith {i : Instr} {e : Except Fault ExtractResult} {s t : State}
    (hlawful : ∀ r, e = .ok r → r.lawful = true) (h : extractWith e s = .next t) :
    RxEffect i s t := by
  cases e with
  | error f => cases h
  | ok r =>
    cases h
    exact .extracted { status := .ok, body := .result r } (hlawful r rfl)

theorem rxEffect_of_wireStep {i : Instr} {branch : Memory → Except Fault ExtractResult}
    {s t : State} (hlawful : ∀ m r, branch m = .ok r → r.lawful = true)
    (h : wireStep branch s = .next t) : RxEffect i s t :=
  rxEffect_of_extractWith (fun _ => scanGate_lawful (hlawful s.rxbuf)) h

theorem rxEffect_of_push {data : Byte} {s t : State} (h : execPush .rx data s = .next t) :
    RxEffect (.push .rx data) s t := by
  rw [execPush, onPort_own rfl] at h
  split_ifs at h with hfull
  · unfold pushFull at h
    split_ifs at h
    · cases h; exact .extracted (Response.plain .bufFull) rfl
    · cases h; exact .flushed data rfl
  · cases h; exact .appended data rfl hfull

theorem rxEffect_of_drain {s t : State} (h : execDrain .rx s = .next t) :
    RxEffect (.drain .rx) s t := by
  rw [execDrain, onPort_own rfl] at h
  cases hloop : drainLoop s.rxbuf.length s with
  | error f => rw [hloop] at h; cases h
  | ok p =>
    obtain ⟨u, rs⟩ := p
    rw [hloop] at h
    cases h
    obtain ⟨rfl, hlawful⟩ := drainLoop_applies hloop
    exact .extracted { status := .ok, body := .results rs } hlawful

theorem exec_rx_effect {i : Instr} {s t : State} (hi : agentOf i = .rx) (h : exec i s = .next t) :
    RxEffect i s t := by
  cases i
  case reset => cases hi; cases h; exact .cleared
  case push data => cases hi; exact rxEffect_of_push h
  case extract => cases hi; exact rxEffect_of_extractWith (fun _ => tryExtractOne_lawful) h
  case drain => cases hi; exact rxEffect_of_drain h
  case wireDataStd | wireDataExt => exact rxEffect_of_wireStep (fun _ _ => scanData_lawful) h
  case wireError => exact rxEffect_of_wireStep (fun _ _ => scanError_lawful) h
  case wireConfig | wireUnknown => exact rxEffect_of_wireStep (fun _ _ => scanUnknown_lawful) h
  case encodeData | encodeConfig | reserved110 | reserved111 =>
    cases hi; exact rxEffect_of_badOp h

/-! ### The state primitives keep the invariant (R13) -/

theorem inv_iff {s : State} : s.inv = true ↔
    s.config.legal = true ∧ Memory.wf s.config s.rxbuf = true
      ∧ s.frameOut.all CanFrame.decoded = true
      ∧ s.rxResponses.all (Response.lawfulAt .rx) = true
      ∧ s.txResponses.all (Response.lawfulAt .tx) = true := by
  simp only [State.inv, Bool.and_eq_true, and_assoc]

theorem inv_setPending {s : State} (h : s.inv = true) (q : List Issue) :
    (s.setPending q).inv = true := h

theorem inv_setRxbuf {s : State} {m : Memory} (h : s.inv = true)
    (hm : Memory.wf s.config m = true) : (s.setRxbuf m).inv = true := by
  obtain ⟨hlegal, -, hrest⟩ := inv_iff.mp h
  exact inv_iff.mpr ⟨hlegal, hm, hrest⟩

theorem inv_emit {s : State} {es : List Event} (h : s.inv = true)
    (hes : (es.filterMap Event.frame).all CanFrame.decoded = true) : (s.emit es).inv = true := by
  obtain ⟨hlegal, hwf, hframes, hresponses⟩ := inv_iff.mp h
  refine inv_iff.mpr ⟨hlegal, hwf, ?_, hresponses⟩
  rw [emit_frameOut, List.all_append, hframes, hes, Bool.and_self]

theorem inv_respond {s : State} {p : Port} {v : Response} (h : s.inv = true)
    (hv : v.lawfulAt p = true) : (s.respond p v).inv = true := by
  obtain ⟨hlegal, hwf, hframes, hrx, htx⟩ := inv_iff.mp h
  cases p with
  | rx => exact inv_iff.mpr ⟨hlegal, hwf, hframes, by simp [hrx, hv], htx⟩
  | tx => exact inv_iff.mpr ⟨hlegal, hwf, hframes, hrx, by simp [htx, hv]⟩

/-- The only frame a lawful result puts on `frame_out` is one the decoder produces (R25, R130). -/
theorem route_decoded {r : ExtractResult} (h : r.lawful = true) :
    ((route r.unit).filterMap Event.frame).all CanFrame.decoded = true := by
  cases hu : r.unit with
  | data f =>
    simp only [ExtractResult.lawful, hu, Bool.and_eq_true] at h
    simpa [route] using h.2
  | error e | decodeFailure c | none => rfl

theorem inv_applyResult {s : State} {r : ExtractResult} (h : s.inv = true)
    (hr : r.lawful = true) : (s.applyResult r).inv = true :=
  inv_emit (inv_setRxbuf h (memory_wf_discard (inv_iff.mp h).2.1 _)) (route_decoded hr)

theorem inv_foldl_applyResult {rs : List ExtractResult} {s : State} (h : s.inv = true)
    (hrs : rs.all ExtractResult.lawful = true) : (rs.foldl State.applyResult s).inv = true := by
  induction rs generalizing s with
  | nil => exact h
  | cons r rs ih =>
    rw [List.all_cons, Bool.and_eq_true] at hrs
    obtain ⟨hr, hrs⟩ := hrs
    exact ih (inv_applyResult h hr) hrs

/-- A lawful RX response carries lawful results only. -/
theorem extractions_lawful {v : Response} (h : v.lawfulAt .rx = true) :
    v.extractions.all ExtractResult.lawful = true := by
  obtain ⟨status, body⟩ := v
  cases body with
  | plain => rfl
  | result r => cases status <;> simp_all [Response.lawfulAt, Response.extractions]
  | results rs => cases status <;> simp_all [Response.lawfulAt, Response.extractions]

/-! ### Every instruction keeps the invariant -/

theorem rxEffect_keeps_inv {i : Instr} {s t : State} (hs : s.inv = true) (h : RxEffect i s t) :
    t.inv = true := by
  obtain ⟨hlegal, hwf, -⟩ := inv_iff.mp hs
  cases h with
  | extracted v lawful =>
    exact inv_respond (inv_foldl_applyResult hs (extractions_lawful lawful)) lawful
  | cleared => exact inv_respond (inv_setRxbuf hs (memory_wf_nil _)) rfl
  | appended data _ room =>
    exact inv_respond (inv_setRxbuf hs (memory_wf_append hwf room data)) rfl
  | flushed data _ => exact inv_respond (inv_setRxbuf hs (memory_wf_singleton hlegal data)) rfl

/-- Bytes on `tx` are no frames, and the answer is OK (R100, R103). -/
theorem transmit_keeps_inv {out : List Byte} {s t : State} (hs : s.inv = true)
    (h : transmit out s = .next t) : t.inv = true := by
  cases h
  exact inv_respond (inv_emit hs (by simp [List.filterMap_map])) rfl

theorem exec_tx_keeps_inv {i : Instr} {s t : State} (hi : agentOf i = .tx) (hs : s.inv = true)
    (h : exec i s = .next t) : t.inv = true := by
  cases i <;> cases hi
  case encodeData id ext dlc payload =>
    rw [exec, execEncodeData, onPort_own rfl] at h
    split_ifs at h
    · cases h; exact inv_respond hs rfl
    · exact transmit_keeps_inv hs h
  case encodeConfig => exact transmit_keeps_inv hs h
  all_goals cases h; exact inv_respond hs rfl

theorem exec_keeps_inv {i : Instr} {s t : State} (hs : s.inv = true) (h : exec i s = .next t) :
    t.inv = true := by
  cases hi : agentOf i with
  | rx => exact rxEffect_keeps_inv hs (exec_rx_effect hi h)
  | tx => exact exec_tx_keeps_inv hi hs h

/-! ### The obligations of the state family -/

/-- Settles O3: a step is idle, or runs an instruction, and every instruction keeps the invariant. -/
theorem everyStepKeepsTheInvariant : Obligations.EveryStepKeepsTheInvariant := by
  intro s t hs h
  cases hpending : s.pending with
  | nil =>
    rw [step_of_pending_nil hpending] at h
    cases h; exact hs
  | cons c rest =>
    rw [step_of_pending_cons hpending] at h
    exact exec_keeps_inv (inv_setPending hs rest) h

/-- Settles O8: either agent's rule gives the events as emitted behind the history. -/
theorem eventsAreOnlyAppended : Obligations.EventsAreOnlyAppended := by
  intro i s t h
  cases hi : agentOf i with
  | rx =>
    obtain ⟨m', es, v, -, hrun⟩ := exec_of_agent_rx hi s.config s.rxbuf
    obtain rfl := Host.Outcome.next.inj ((hrun s rfl rfl).symm.trans h)
    exact ⟨es, by simp⟩
  | tx =>
    obtain ⟨out, v, hrun⟩ := exec_of_agent_tx hi
    obtain rfl := Host.Outcome.next.inj ((hrun s).symm.trans h)
    exact ⟨out.map Event.tx, by simp⟩

/-- Settles O26: the RX agent's rule chooses buffer, events and response from the parameter and the
buffer, before the state. -/
theorem scannerHasNoHiddenState : Obligations.ScannerHasNoHiddenState := by
  intro i s t hi hbuf hconfig
  obtain ⟨m', es, v, -, hrun⟩ := exec_of_agent_rx hi s.config s.rxbuf
  exact ⟨_, _, es, v, hrun s rfl rfl, hrun t hconfig.symm hbuf.symm, by simp⟩

/-- Settles O27: by the four effects of an RX instruction; a TX instruction leaves the buffer
alone. -/
theorem bufferIsARunOfTheStream : Obligations.BufferIsARunOfTheStream := by
  intro i s t h
  cases hi : agentOf i with
  | rx =>
    cases exec_rx_effect hi h with
    | extracted v => exact .inl (by simpa using foldl_applyResult_suffix v.extractions s)
    | cleared => exact .inl (by simp)
    | appended data pushed => exact .inr (by simp [pushed])
    | flushed data pushed => exact .inr (by simp [pushed])
  | tx =>
    obtain ⟨-, hbuf, -⟩ := side_rx_eq_iff.mp (exec_side_of_ne (p := .rx) (by simp [hi]) h)
    exact .inl (by rw [hbuf])

/-- Settles O1: each field of the power-on state at the value R32 gives it. -/
theorem resetStateIsEmpty : Obligations.ResetStateIsEmpty :=
  ⟨rfl, fun _ => ⟨rfl, rfl, rfl, rfl⟩⟩

end Sys2Proof.Machine

/-!
PROOFS of the memory family: reads stay in the buffer, no step faults or is refused, and an
extraction step that waits leaves its state as it was, so that it can be repeated.
-/

namespace Sys2Proof.Machine

/-! ### An extraction step that waits (R46, R129) -/

/-- R131: a step that gives a unit discards the whole frame it came from, so a result that discards
nothing gives none. -/
theorem unit_eq_none_of_discard_eq_zero {r : ExtractResult} (hr : r.lawful = true)
    (h0 : r.discard = 0) : r.unit = .none := by
  cases hu : r.unit with
  | data f =>
    have hlen : 0 < f.wireLength := by unfold CanFrame.wireLength; omega
    simp [ExtractResult.lawful, hu, h0, hlen.ne] at hr
  | error e => simp [ExtractResult.lawful, hu, h0, ERROR_FRAME_LEN] at hr
  | decodeFailure c => simp [ExtractResult.lawful, hu, h0, ERROR_FRAME_LEN] at hr
  | none => rfl

/-- EXTRACT of a buffer whose extraction step waits adds its response and changes nothing else. -/
theorem exec_extract_of_wait {s : State} {r : ExtractResult} (hr : tryExtractOne s.rxbuf = .ok r)
    (h0 : r.discard = 0) :
    exec (.extract .rx) s =
      .next { s with rxResponses := s.rxResponses ++ [{ status := .ok, body := .result r }] } := by
  have hunit : r.unit = .none := unit_eq_none_of_discard_eq_zero (tryExtractOne_lawful hr) h0
  rw [exec, execExtract, onPort_own rfl, hr, extractWith_ok]
  simp [h0, hunit, route]

/-! ### The obligations of the memory family -/

/-- Settles O16: whatever the form of the buffer, each checked read of the steps that reach it is
inside it. -/
theorem extractionReadsStayInTheBuffer : Obligations.ExtractionReadsStayInTheBuffer :=
  tryExtractOne_answers

/-- Settles O4: a step is idle or runs an instruction, and every instruction answers. -/
theorem everyStepAnswersANextState : Obligations.EveryStepAnswersANextState := by
  intro s
  cases hpending : s.pending with
  | nil => exact ⟨s, step_of_pending_nil hpending⟩
  | cons c rest =>
    rw [step_of_pending_cons hpending]
    exact exec_answers _ _

/-- Settles O24, by induction on the number of EXTRACT commands: each leaves the buffer that the
next one reads. -/
theorem waitingExtractIsRepeatable : Obligations.WaitingExtractIsRepeatable := by
  intro n s r hr h0
  induction n generalizing s with
  | zero => simp [runInstrs]
  | succ n ih =>
    rw [List.replicate_succ, runInstrs_cons_of_next (exec_extract_of_wait hr h0), ih]
    · simp [List.replicate_succ]
    · exact hr

end Sys2Proof.Machine

/-!
PROOFS of the encoding family: commands and type bytes there and back, and the commands and wire rows
whose answer their encoding decides. The round trips rest on two facts: the fields of a packed record
are its operands (`decodeRecord_packed…`), and every type byte is a data header, one of two fixed
bytes, or unknown (`typeByte_cases`).
-/

namespace Sys2Proof.Machine

/-! ### The command an op stands for (R75, R76) -/

section
variable {r : Record} (p : Port)

theorem decodeRecord_reset (h : r.op = 0) : decodeRecord p r = .reset p := by
  rw [decodeRecord, h]; rfl

theorem decodeRecord_push (h : r.op = 1) : decodeRecord p r = .push p (r.extractLsb' 3 8) := by
  rw [decodeRecord, h]; rfl

theorem decodeRecord_extract (h : r.op = 2) : decodeRecord p r = .extract p := by
  rw [decodeRecord, h]; rfl

theorem decodeRecord_drain (h : r.op = 3) : decodeRecord p r = .drain p := by
  rw [decodeRecord, h]; rfl

theorem decodeRecord_encodeData (h : r.op = 4) : decodeRecord p r =
    .encodeData p (r.extractLsb' 3 32) (r.getLsbD 35) (r.extractLsb' 36 4) r.payload := by
  rw [decodeRecord, h]; rfl

theorem decodeRecord_encodeConfig (h : r.op = 5) : decodeRecord p r =
    .encodeConfig p (r.extractLsb' 3 32) (r.getLsbD 35) (r.getLsbD 36) (r.getLsbD 37)
      (r.extractLsb' 38 32) (r.extractLsb' 70 32) := by
  rw [decodeRecord, h]; rfl

theorem decodeRecord_reserved110 (h : r.op = 6) : decodeRecord p r = .reserved110 p := by
  rw [decodeRecord, h]; rfl

theorem decodeRecord_reserved111 (h : r.op = 7) : decodeRecord p r = .reserved111 p := by
  rw [decodeRecord, h]; rfl

end

theorem decodeRecord_wf (p : Port) (r : Record) : (decodeRecord p r).wf = true := by
  unfold decodeRecord
  split <;> rfl

/-! ### The operand fields of a packed record (R76, log 5)

A field of a concatenation is read from the part that holds it, its place counted from there. -/

theorem decodeRecord_packedPush (p : Port) (data : Byte) :
    decodeRecord p ((data ++ (1 : BitVec 3) : BitVec 11).setWidth 104) = .push p data := by
  have hdata : ((data ++ (1 : BitVec 3) : BitVec 11).setWidth 104).extractLsb' 3 8 = data := by
    simp (disch := decide) only [BitVec.extractLsb'_setWidth_of_le,
      BitVec.extractLsb'_append_eq_of_le, Nat.reduceSub, BitVec.extractLsb'_eq_self]
  rw [decodeRecord_push p (op_append _ _), hdata]

theorem decodeRecord_packedEncodeData (p : Port) (id : Word32) (ext : Bool) (dlc : BitVec 4)
    {payload : List Byte} (h : payload.length = 8) :
    decodeRecord p
        (BitVec.ofNat 64 (fromLE payload) ++ dlc ++ BitVec.ofBool ext ++ id ++ (4 : BitVec 3))
      = .encodeData p id ext dlc payload := by
  rw [decodeRecord_encodeData p (by rw [← BitVec.setWidth_eq (_ ++ (4 : BitVec 3)), op_append]),
    payload_pack h]
  simp (disch := decide) only [BitVec.extractLsb'_append_eq_of_le,
    BitVec.extractLsb'_append_eq_of_add_le, BitVec.extractLsb'_eq_self, BitVec.getLsbD_append,
    BitVec.getLsbD_ofBool, Nat.reduceSub, Nat.reduceLT, if_true, if_false, decide_true,
    Bool.true_and]

theorem decodeRecord_packedEncodeConfig (p : Port) (bitrate : Word32) (term silent erpt : Bool)
    (filterId filterMask : Word32) :
    decodeRecord p ((filterMask ++ filterId ++ BitVec.ofBool erpt ++ BitVec.ofBool silent
        ++ BitVec.ofBool term ++ bitrate ++ (5 : BitVec 3) : BitVec 102).setWidth 104)
      = .encodeConfig p bitrate term silent erpt filterId filterMask := by
  rw [decodeRecord_encodeConfig p (op_append _ _)]
  simp (disch := decide) only [BitVec.extractLsb'_setWidth_of_le, BitVec.getLsbD_setWidth,
    BitVec.extractLsb'_append_eq_of_le, BitVec.extractLsb'_append_eq_of_add_le,
    BitVec.extractLsb'_eq_self, BitVec.getLsbD_append, BitVec.getLsbD_ofBool,
    Nat.reduceSub, Nat.reduceLT, if_true, if_false, decide_true, Bool.true_and]

/-! ### Data headers (R63, R71) -/

section
variable (ext bit4 : Bool) (dlc : BitVec 4)

theorem wireHeader_xor_bit4 : wireHeader ext bit4 dlc ^^^ 0x10 = wireHeader ext (!bit4) dlc := by
  revert ext bit4 dlc; decide

theorem wireHeader_getLsbD_four : (wireHeader ext bit4 dlc).getLsbD 4 = bit4 := by
  revert ext bit4 dlc; decide

@[simp] theorem headerExt_wireHeader : headerExt (wireHeader ext bit4 dlc) = ext := by
  revert ext bit4 dlc; decide

@[simp] theorem headerDlc_wireHeader : headerDlc (wireHeader ext bit4 dlc) = dlc.toNat := by
  revert ext bit4 dlc; decide

@[simp] theorem classify_wireHeader : classify (wireHeader ext bit4 dlc) = .data := by
  revert ext bit4 dlc; decide

/-- The header of a data row decodes to that row, with its fields. -/
theorem decodeType_wireHeader : decodeType (wireHeader ext bit4 dlc) =
    if ext then .wireDataExt bit4 dlc else .wireDataStd bit4 dlc := by
  revert ext bit4 dlc; decide

/-- The type byte of a data row is its header byte. -/
theorem encodeType_dataRow :
    encodeType (if ext then .wireDataExt bit4 dlc else .wireDataStd bit4 dlc)
      = some (wireHeader ext bit4 dlc) := by
  cases ext <;> rfl

/-- ENCODE_DATA's header byte is that of its data row, the unnamed bit 4 zero (R101). -/
theorem encodeHeader_eq_wireHeader : encodeHeader ext dlc = wireHeader ext false dlc := by
  revert ext dlc; decide

end

/-! ### The masks of the wire rows as ranges of type bytes (R69) -/

section
variable {h : Byte}

theorem and_dataTypeMask_iff : h &&& DATA_TYPE_MASK = DATA_TYPE_MATCH ↔ 0xC0 ≤ h.toNat := by
  revert h; decide

theorem and_stdMask_iff : h &&& 0xE0 = 0xC0 ↔ 0xC0 ≤ h.toNat ∧ h.toNat ≤ 0xDF := by
  revert h; decide

theorem and_extMask_iff : h &&& 0xE0 = 0xE0 ↔ 0xE0 ≤ h.toNat := by
  revert h; decide

/-- A data header is its named fields and bit 4. -/
theorem exists_wireHeader_eq (hdata : h &&& DATA_TYPE_MASK = DATA_TYPE_MATCH) :
    ∃ ext bit4 dlc, wireHeader ext bit4 dlc = h :=
  ⟨headerExt h, h.getLsbD 4, h.extractLsb' 0 4, by revert h; decide⟩

theorem isUnknownType_iff : h.isUnknownType = true ↔
    h.toNat < 0xC0 ∧ h ≠ TYPE_ERROR ∧ h ≠ TYPE_CONFIG := by
  simp only [Byte.isUnknownType, Bool.and_eq_true, bne_iff_ne, ne_eq, and_dataTypeMask_iff,
    not_le, and_assoc]

/-! ### The row and the class of a type byte (R69) -/

theorem decodeType_std (hstd : h &&& 0xE0 = 0xC0) :
    decodeType h = .wireDataStd (h.getLsbD 4) (h.extractLsb' 0 4) := by
  rw [decodeType, if_pos hstd]

theorem decodeType_ext (hext : h &&& 0xE0 = 0xE0) :
    decodeType h = .wireDataExt (h.getLsbD 4) (h.extractLsb' 0 4) := by
  have hstd : h &&& 0xE0 ≠ 0xC0 := by rw [hext]; decide
  rw [decodeType, if_neg hstd, if_pos hext]

/-- An unknown type byte is below the two data rows, and is no other row's byte. -/
theorem decodeType_unknown (hu : h.isUnknownType = true) : decodeType h = .wireUnknown h := by
  obtain ⟨hlt, herror, hconfig⟩ := isUnknownType_iff.mp hu
  have hstd : h &&& 0xE0 ≠ 0xC0 := fun hm => by have := and_stdMask_iff.mp hm; omega
  have hext : h &&& 0xE0 ≠ 0xE0 := fun hm => by have := and_extMask_iff.mp hm; omega
  rw [decodeType, if_neg hstd, if_neg hext, if_neg herror, if_neg hconfig]

theorem classify_eq_data_iff : classify h = .data ↔ 0xC0 ≤ h.toNat := by
  rw [← and_dataTypeMask_iff, classify]
  split_ifs with hdata herror <;> simp [hdata]

theorem classify_eq_error_iff : classify h = .error ↔ h = TYPE_ERROR := by
  refine ⟨fun he => ?_, by rintro rfl; rfl⟩
  unfold classify at he
  split_ifs at he with hdata herror
  exact herror

end

/-- Every type byte is a data header, the error type, the configuration type, or unknown. -/
theorem typeByte_cases (h : Byte) :
    (∃ ext bit4 dlc, wireHeader ext bit4 dlc = h) ∨ h = TYPE_ERROR ∨ h = TYPE_CONFIG
      ∨ h.isUnknownType = true := by
  by_cases hdata : h &&& DATA_TYPE_MASK = DATA_TYPE_MATCH
  · exact .inl (exists_wireHeader_eq hdata)
  · by_cases herror : h = TYPE_ERROR
    · exact .inr (.inl herror)
    · by_cases hconfig : h = TYPE_CONFIG
      · exact .inr (.inr (.inl hconfig))
      · exact .inr (.inr (.inr (by simp [Byte.isUnknownType, hdata, herror, hconfig])))

theorem decodeType_wf (h : Byte) : (decodeType h).wf = true := by
  obtain ⟨ext, bit4, dlc, rfl⟩ | rfl | rfl | hu := typeByte_cases h
  · rw [decodeType_wireHeader]
    cases ext <;> rfl
  · rfl
  · rfl
  · rw [decodeType_unknown hu]
    exact hu

/-! ### There and back -/

theorem encodeType_decodeType (h : Byte) : encodeType (decodeType h) = some h := by
  obtain ⟨ext, bit4, dlc, rfl⟩ | rfl | rfl | hu := typeByte_cases h
  · rw [decodeType_wireHeader, encodeType_dataRow]
  · rfl
  · rfl
  · rw [decodeType_unknown hu]
    rfl

/-- A command's bytes are those of its record, which they give back. -/
theorem decode_encode_of_record {i : Instr} {p : Port} {r : Record}
    (h : encodeRecord i = some (p, r)) :
    decode (encode i).1 (encode i).2 = .ok (decodeRecord p r) := by
  have hlen : (bytesOfRecord r).length = RECORD_BYTES := leBytes_length _ _
  simp [encode, h, decode, hlen, recordOfBytes_bytesOfRecord]

/-- A wire row's bytes are its type byte. -/
theorem decode_encode_of_type {i : Instr} {h : Byte} (hr : encodeRecord i = none)
    (ht : encodeType i = some h) : decode (encode i).1 (encode i).2 = .ok (decodeType h) := by
  simp [encode, hr, ht, decode]

theorem decode_encode {i : Instr} (hwf : i.wf = true) :
    decode (encode i).1 (encode i).2 = .ok i := by
  cases i
  case reset p => rw [decode_encode_of_record rfl, decodeRecord_reset p (opOnly_op 0)]
  case push p data => rw [decode_encode_of_record rfl, decodeRecord_packedPush]
  case extract p => rw [decode_encode_of_record rfl, decodeRecord_extract p (opOnly_op 2)]
  case drain p => rw [decode_encode_of_record rfl, decodeRecord_drain p (opOnly_op 3)]
  case encodeData p id ext dlc payload =>
    have hlen : payload.length = 8 := by simpa [Instr.wf] using hwf
    rw [decode_encode_of_record rfl, decodeRecord_packedEncodeData p id ext dlc hlen]
  case encodeConfig => rw [decode_encode_of_record rfl, decodeRecord_packedEncodeConfig]
  case reserved110 p => rw [decode_encode_of_record rfl, decodeRecord_reserved110 p (opOnly_op 6)]
  case reserved111 p => rw [decode_encode_of_record rfl, decodeRecord_reserved111 p (opOnly_op 7)]
  case wireDataStd bit4 dlc =>
    have hrow := decodeType_wireHeader false bit4 dlc
    exact (decode_encode_of_type rfl (encodeType_dataRow false bit4 dlc)).trans (congrArg _ hrow)
  case wireDataExt bit4 dlc =>
    have hrow := decodeType_wireHeader true bit4 dlc
    exact (decode_encode_of_type rfl (encodeType_dataRow true bit4 dlc)).trans (congrArg _ hrow)
  case wireError | wireConfig => rfl
  case wireUnknown t => rw [decode_encode_of_type rfl rfl, decodeType_unknown hwf]

theorem decode_wf {src : Source} {bs : List Byte} {i : Instr} (h : decode src bs = .ok i) :
    i.wf = true := by
  cases src with
  | port p =>
    rw [decode] at h
    split_ifs at h
    cases h; exact decodeRecord_wf p _
  | wire =>
    match bs with
    | [t] => cases h; exact decodeType_wf t
    | [] | _ :: _ :: _ => cases h

/-! ### The data branch and header bit 4 (R71, R126) -/

/-- The data branch reads the extended flag and the dlc of its header, and never the byte of the
buffer at offset 1. -/
theorem scanData_congr {h h' : Byte} (hext : headerExt h = headerExt h')
    (hdlc : headerDlc h = headerDlc h') (first t t' : Byte) (rest : Memory) :
    scanData h (first :: t :: rest) = scanData h' (first :: t' :: rest) := by
  have htotal : totalLength h = totalLength h' := by rw [totalLength, totalLength, hext, hdlc]
  obtain ⟨n, hn⟩ : ∃ n, totalLength h' - 1 = n + 2 :=
    ⟨totalLength h' - 3, by have := five_le_totalLength h'; omega⟩
  simp [scanData, htotal, hn, hext, hdlc, memRead, memReadN, decodeDataFrame, Nat.add_comm 2]

theorem tryExtractOne_wireHeader_congr (ext bit4 bit4' : Bool) (dlc : BitVec 4) (rest : Memory) :
    tryExtractOne (START :: wireHeader ext bit4 dlc :: rest)
      = tryExtractOne (START :: wireHeader ext bit4' dlc :: rest) := by
  match rest with
  | [] | [_] =>
    rw [tryExtractOne, tryExtractOne, scanGate_short (by simp), scanGate_short (by simp)]
  | a :: b :: rest =>
    rw [tryExtractOne_pass, tryExtractOne_pass, scanType, scanType, classify_wireHeader,
      classify_wireHeader]
    exact scanData_congr (by simp) (by simp) _ _ _ _

/-! ### PUSH into an unbounded buffer (R120) -/

theorem exec_push_of_unbounded {s : State} (h : s.config.rxbufCap = none) (data : Byte) :
    exec (.push .rx data) s = .next { s with
      rxbuf := s.rxbuf ++ [data]
      rxResponses := s.rxResponses ++ [Response.plain .ok] } := by
  simp [exec, execPush, onPort_own, h, okRx_eq, State.append, State.setRxbuf]

/-! ### The error row (R68, R106, R127) -/

theorem decodeError_code (e : ErrorNotification) : decodeError e.code = .error e := by
  cases e <;> rfl

theorem decodeError_of_five_le {code : Byte} (h : 5 ≤ code.toNat) :
    decodeError code = .decodeFailure code := by
  obtain ⟨e, -, rfl⟩ | ⟨hfail, -⟩ := decodeError_cases code
  · cases e <;> simp [ErrorNotification.code] at h
  · exact hfail

section
variable {first t code last : Byte} {rest : Memory}

theorem scanError_badStop (h : last ≠ STOP) :
    scanError (first :: t :: code :: last :: rest) = .ok (skip 4 .errBadStop) := by
  rw [scanError_eq, if_neg h]

theorem scanError_notification (e : ErrorNotification) :
    scanError (first :: t :: e.code :: STOP :: rest)
      = .ok { discard := 4, unit := .error e, reason := .errOk } := by
  rw [scanError_eq, if_pos rfl, decodeError_code]

theorem scanError_failure (h : 5 ≤ code.toNat) :
    scanError (first :: t :: code :: STOP :: rest)
      = .ok { discard := 4, unit := .decodeFailure code, reason := .errDecodeFailure } := by
  rw [scanError_eq, if_pos rfl, decodeError_of_five_le h]

end

/-- WIRE_ERROR on a buffer that passes steps 1 and 2 applies and answers what its branch gives. -/
theorem exec_wireError_of_pass {s : State} {x code last : Byte} {rest : Memory} {r : ExtractResult}
    (hs : s.rxbuf = START :: x :: code :: last :: rest)
    (hr : scanError (START :: x :: code :: last :: rest) = .ok r) :
    exec .wireError s = .next { s with
      rxbuf := (START :: x :: code :: last :: rest).drop r.discard
      history := s.history ++ route r.unit
      rxResponses := s.rxResponses ++ [{ status := .ok, body := .result r }] } := by
  rw [exec, execWireError, wireStep_pass hs (by simp), hs, hr, extractWith_ok, hs]

/-! ### What a transmit command puts on `tx` (R100, R103) -/

theorem transmit_tx {out : List Byte} {s : State} :
    ∃ t, transmit out s = .next t ∧ t.tx.drop s.tx.length = out :=
  ⟨_, rfl, by simp [emit_tx, List.filterMap_map]⟩

/-- The second byte of a data frame is its header. -/
theorem encodeDataFrame_header (id : Word32) (ext : Bool) (dlc : BitVec 4) (payload : List Byte) :
    (encodeDataFrame id ext dlc payload)[1]? = some (wireHeader ext false dlc) := by
  rw [← encodeHeader_eq_wireHeader]
  rfl

/-! ### Illegal ops (R75, R77) -/

theorem illegalAt_rx_iff (op : BitVec 3) :
    illegalAt .rx op.toNat = true ↔ op = 4 ∨ op = 5 ∨ op = 6 ∨ op = 7 := by
  revert op; decide

theorem illegalAt_tx_iff (op : BitVec 3) :
    illegalAt .tx op.toNat = true ↔ op = 0 ∨ op = 1 ∨ op = 2 ∨ op = 3 ∨ op = 6 ∨ op = 7 := by
  revert op; decide

/-! ### The obligations of the encoding family -/

/-- Settles O51: each command's record has its op and its operands back, each wire row its type
byte. -/
theorem decodeOfEncodeIsTheInstruction : Obligations.DecodeOfEncodeIsTheInstruction :=
  fun _ => decode_encode

/-- Settles O11, by induction on the bytes: each PUSH leaves an unbounded buffer to the next. -/
theorem pushnAppendsInOrder : Obligations.PushnAppendsInOrder := by
  intro bs s hcap
  induction bs generalizing s with
  | nil => simp [pushes, runInstrs]
  | cons b bs ih =>
    rw [pushes, List.map_cons, runInstrs_cons_of_next (exec_push_of_unbounded hcap b), ← pushes, ih]
    · simp [List.replicate_succ]
    · exact hcap

/-- Settles O25: `h ^ 0x10` is a header with the same named fields, which are all the decoder reads,
and the encoder's header is the one with bit 4 zero. -/
theorem headerBit4IsIgnored : Obligations.HeaderBit4IsIgnored := by
  refine ⟨fun h rest hdata => ?_, fun ext dlc _ => ?_⟩
  · obtain ⟨ext, bit4, dlc, rfl⟩ := exists_wireHeader_eq hdata
    rw [wireHeader_xor_bit4]
    exact tryExtractOne_wireHeader_congr ext bit4 (!bit4) dlc rest
  · rw [encodeHeader_eq_wireHeader, wireHeader_getLsbD_four]

/-- Settles O40: an illegal op decodes to a reserved command or to one of the other agent's. -/
theorem illegalOpsAnswerBadOp : Obligations.IllegalOpsAnswerBadOp := by
  intro p r s hill
  cases p with
  | rx =>
    obtain hop | hop | hop | hop := (illegalAt_rx_iff r.op).mp hill
    · rw [decodeRecord_encodeData _ hop]; rfl
    · rw [decodeRecord_encodeConfig _ hop]; rfl
    · rw [decodeRecord_reserved110 _ hop]; rfl
    · rw [decodeRecord_reserved111 _ hop]; rfl
  | tx =>
    obtain hop | hop | hop | hop | hop | hop := (illegalAt_tx_iff r.op).mp hill
    · rw [decodeRecord_reset _ hop]; rfl
    · rw [decodeRecord_push _ hop]; rfl
    · rw [decodeRecord_extract _ hop]; rfl
    · rw [decodeRecord_drain _ hop]; rfl
    · rw [decodeRecord_reserved110 _ hop]; rfl
    · rw [decodeRecord_reserved111 _ hop]; rfl

/-- Settles O46: the error branch on its four bytes, by the stop marker and the code. -/
theorem wireErrorRowDecodes : Obligations.WireErrorRowDecodes := by
  intro s x code last rest hs
  refine ⟨fun hlast => ?_, fun e hlast hcode => ?_, fun hlast hcode => ?_⟩
  · exact exec_wireError_of_pass hs (scanError_badStop hlast)
  · subst hlast hcode
    exact exec_wireError_of_pass hs (scanError_notification e)
  · subst hlast
    exact exec_wireError_of_pass hs (scanError_failure hcode)

/-- Settles O49: the second byte of either frame, as it stands on `tx`, is its row's type byte. -/
theorem emittedTypeBytesDecodeToTheirRows : Obligations.EmittedTypeBytesDecodeToTheirRows := by
  refine ⟨fun s id ext dlc payload hdlc => ?_,
    fun s bitrate term silent erpt filterId filterMask => ?_⟩
  · obtain ⟨t, ht, hout⟩ := transmit_tx (out := encodeDataFrame id ext dlc payload) (s := s)
    have hfits : ¬ dlc.toNat > ENC_MAX_PAYLOAD := not_lt.mpr hdlc
    refine ⟨t, wireHeader ext false dlc, ?_, ?_, decodeType_wireHeader ext false dlc⟩
    · rw [exec, execEncodeData, onPort_own rfl, if_neg hfits, ht]
    · rw [hout, encodeDataFrame_header]
  · obtain ⟨t, ht, hout⟩ := transmit_tx
      (out := encodeConfiguration bitrate term silent erpt filterId filterMask) (s := s)
    refine ⟨t, TYPE_CONFIG, ?_, ?_, rfl⟩
    · rw [exec, execEncodeConfig, onPort_own rfl, ht]
    · rw [hout]; rfl

/-- Settles O53: a record gives ENCODE_DATA its eight bytes, and only an unknown type byte reaches
WIRE_UNKNOWN. -/
theorem decoderAnswersWellFormed : Obligations.DecoderAnswersWellFormed :=
  fun _ _ _ => decode_wf

/-- Settles O41: the reserved ops run `badOp`, and so does the port check at the other port. -/
theorem reservedAndMisplacedCommands : Obligations.ReservedAndMisplacedCommands := by
  intro s id bitrate filterId filterMask data ext term silent erpt dlc payload
  exact ⟨rfl, rfl, rfl, rfl, rfl, rfl, rfl, rfl, rfl, rfl⟩

/-- Settles O42: each mask is a range of type bytes. -/
theorem typeByteClasses : Obligations.TypeByteClasses := by
  refine ⟨fun h => ⟨classify_eq_data_iff, classify_eq_error_iff, ?_, ?_, ?_, ?_, ?_⟩, rfl⟩
  · exact fun hrange => decodeType_std (and_stdMask_iff.mpr hrange)
  · exact fun hrange => decodeType_ext (and_extMask_iff.mpr hrange)
  · rintro rfl; rfl
  · rintro rfl; rfl
  · exact fun hother => decodeType_unknown (isUnknownType_iff.mpr hother)

/-- Settles O52: encoding undoes each row of the type decoder. -/
theorem typeByteRoundTrip : Obligations.TypeByteRoundTrip := encodeType_decodeType

/-- Settles O54: each word evaluated by the decoder. -/
theorem wordsOfTheTableDecode : Obligations.WordsOfTheTableDecode := by
  unfold Obligations.WordsOfTheTableDecode
  decide

end Sys2Proof.Machine

/-!
PROOFS of the codec family: the bytes the encoders put on `tx`, and what the scanner makes of them.
The round trip of R107 rests on three facts: the bytes of a frame within the capacity are pushed as
they are (`runInstrs_pushes`), the data branch reads a frame's fields off its bytes
(`scanData_frame`), and the codec gives a frame's fields back (`decodeDataFrame_encodeId`).
-/

namespace Sys2Proof.Machine

/-! ### Little-endian fields (R12) -/

theorem extractByte_eq_ofNat (v : Word32) (k : Nat) :
    v.extractLsb' k 8 = BitVec.ofNat 8 (v.toNat / 2 ^ k) := by
  rw [BitVec.extractLsb', Nat.shiftRight_eq_div_pow]

theorem le16_eq_leBytes (v : Word32) : le16 v = leBytes 2 v.toNat := by
  simp [le16, leBytes, extractByte_eq_ofNat]

theorem le32_eq_leBytes (v : Word32) : le32 v = leBytes 4 v.toNat := by
  simp [le32, leBytes, extractByte_eq_ofNat, Nat.div_div_eq_div_mul]

/-! ### The bytes of a data frame (R100 to R102) -/

section
variable (id : Word32) (ext : Bool) (dlc : BitVec 4) (payload : List Byte)

theorem encodeId_eq_leBytes : encodeId ext id = leBytes (idWidth ext) id.toNat := by
  cases ext
  · exact le16_eq_leBytes id
  · exact le32_eq_leBytes id

@[simp] theorem encodeId_length : (encodeId ext id).length = idWidth ext := by
  rw [encodeId_eq_leBytes, leBytes_length]

theorem fromLE_encodeId :
    fromLE (encodeId ext id) = if ext then id.toNat else id.toNat % 2 ^ 16 := by
  rw [encodeId_eq_leBytes, fromLE_leBytes]
  cases ext
  · rfl
  · exact Nat.mod_eq_of_lt id.isLt

theorem encodeHeader_toNat :
    (encodeHeader ext dlc).toNat = 0xC0 + (if ext then 0x20 else 0) + dlc.toNat := by
  revert ext dlc; decide

theorem encodeHeader_eq_ofNat :
    encodeHeader ext dlc = BitVec.ofNat 8 (0xC0 + (if ext then 0x20 else 0) + dlc.toNat) := by
  rw [← encodeHeader_toNat, BitVec.ofNat_toNat, BitVec.setWidth_eq]

/-- The fields of the header byte ENCODE_DATA writes (R101). -/
theorem encodeHeader_fields :
    (encodeHeader ext dlc).extractLsb' 6 2 = 3 ∧ (encodeHeader ext dlc).getLsbD 5 = ext
      ∧ (encodeHeader ext dlc).getLsbD 4 = false
      ∧ (encodeHeader ext dlc).extractLsb' 0 4 = dlc := by
  revert ext dlc; decide

/-- The total length a data header declares (R126). -/
theorem totalLength_wireHeader (bit4 : Bool) :
    totalLength (wireHeader ext bit4 dlc) = dlc.toNat + 3 + idWidth ext := by
  simp [totalLength]

/-- The fields of a data frame one behind the other, its stop marker last (R61). -/
theorem encodeDataFrame_eq : encodeDataFrame id ext dlc payload =
    START :: wireHeader ext false dlc
      :: (encodeId ext id ++ (payload.take dlc.toNat ++ [STOP])) := by
  simp [encodeDataFrame, encodeHeader_eq_wireHeader]

theorem encodeDataFrame_eq_leBytes : encodeDataFrame id ext dlc payload =
    [0xAA, BitVec.ofNat 8 (0xC0 + (if ext then 0x20 else 0) + dlc.toNat)]
      ++ leBytes (if ext then 4 else 2) id.toNat ++ payload.take dlc.toNat ++ [0x55] := by
  rw [encodeDataFrame, encodeHeader_eq_ofNat, encodeId_eq_leBytes]
  rfl

theorem encodeDataFrame_idBytes :
    ((encodeDataFrame id ext dlc payload).drop 2).take (idWidth ext) = encodeId ext id := by
  rw [encodeDataFrame_eq]
  exact List.take_left' (encodeId_length id ext)

theorem encodeDataFrame_length (h : dlc.toNat ≤ payload.length) :
    (encodeDataFrame id ext dlc payload).length = totalLength (wireHeader ext false dlc) := by
  simp [encodeDataFrame_eq, totalLength_wireHeader, Nat.min_eq_left h]
  omega

end

/-! ### The bytes of a configuration frame (R103, R104) -/

theorem configFlags_eq_ofNat (term silent erpt : Bool) : configFlags term silent erpt =
    BitVec.ofNat 8 (term.toNat + 2 * silent.toNat + 4 * erpt.toNat) := by
  revert term silent erpt; decide

theorem encodeConfiguration_eq_leBytes (bitrate : Word32) (term silent erpt : Bool)
    (filterId filterMask : Word32) :
    encodeConfiguration bitrate term silent erpt filterId filterMask =
      [0xAA, 0x13, BitVec.ofNat 8 (term.toNat + 2 * silent.toNat + 4 * erpt.toNat)]
        ++ leBytes 4 bitrate.toNat ++ leBytes 4 filterId.toNat ++ leBytes 4 filterMask.toNat
        ++ [0x55] := by
  rw [encodeConfiguration, configFlags_eq_ofNat, le32_eq_leBytes, le32_eq_leBytes, le32_eq_leBytes]
  rfl

/-! ### The TX agent's commands (R100, R103) -/

section
variable {id : Word32} {ext : Bool} {dlc : BitVec 4} {payload : List Byte} (s : State)

theorem exec_encodeData_of_fits (h : dlc.toNat ≤ ENC_MAX_PAYLOAD) :
    exec (.encodeData .tx id ext dlc payload) s
      = transmit (encodeDataFrame id ext dlc payload) s := by
  rw [exec, execEncodeData, onPort_own rfl, if_neg (not_lt.mpr h)]

theorem exec_encodeData_of_tooLong (h : dlc.toNat > ENC_MAX_PAYLOAD) :
    exec (.encodeData .tx id ext dlc payload) s =
      .next { s with txResponses := s.txResponses ++ [Response.plain .encLen] } := by
  rw [exec, execEncodeData, onPort_own rfl, if_pos h]
  rfl

theorem exec_encodeData_tx (h : dlc.toNat ≤ ENC_MAX_PAYLOAD) :
    ∃ t, exec (.encodeData .tx id ext dlc payload) s = .next t
      ∧ t.tx.drop s.tx.length = encodeDataFrame id ext dlc payload := by
  rw [exec_encodeData_of_fits s h]
  exact transmit_tx

theorem exec_encodeConfig (bitrate : Word32) (term silent erpt : Bool)
    (filterId filterMask : Word32) :
    exec (.encodeConfig .tx bitrate term silent erpt filterId filterMask) s
      = transmit (encodeConfiguration bitrate term silent erpt filterId filterMask) s := by
  rw [exec, execEncodeConfig, onPort_own rfl]

end

/-! ### PUSHes that fit the capacity (R20, R120) -/

theorem exec_push_of_room {s : State} (h : s.config.rxbufCap ≠ some s.rxbuf.length) (data : Byte) :
    exec (.push .rx data) s = .next { s with
      rxbuf := s.rxbuf ++ [data]
      rxResponses := s.rxResponses ++ [Response.plain .ok] } := by
  rw [exec, execPush, onPort_own rfl, if_neg h]
  rfl

/-- A buffer that fits with more bytes behind it has room for them. -/
theorem room_of_fits_append {c : Config} {m : Memory} {b : Byte} {bs : List Byte}
    (h : Memory.fits c (m ++ b :: bs) = true) : c.rxbufCap ≠ some m.length := by
  intro hcap
  simp [Memory.fits, hcap] at h

/-- A legal capacity holds every frame (R6). -/
theorem fits_of_length_le {c : Config} {m : Memory} (hc : c.legal = true)
    (hm : m.length ≤ MAX_FRAME_LEN) : Memory.fits c m = true := by
  cases hcap : c.rxbufCap with
  | none => simp [Memory.fits, hcap]
  | some cap =>
    have : MAX_FRAME_LEN ≤ cap := by simpa [Config.legal, hcap] using hc
    simpa [Memory.fits, hcap] using hm.trans this

/-- PUSHN of bytes that fit appends them in order, and the run goes on (R79, R120). -/
theorem runInstrs_pushes (bs : List Byte) (is : List Instr) {s : State}
    (h : Memory.fits s.config (s.rxbuf ++ bs) = true) :
    runInstrs (pushes bs ++ is) s = runInstrs is { s with
      rxbuf := s.rxbuf ++ bs
      rxResponses := s.rxResponses ++ List.replicate bs.length (Response.plain .ok) } := by
  induction bs generalizing s with
  | nil => simp [pushes]
  | cons b bs ih =>
    rw [pushes, List.map_cons, List.cons_append,
      runInstrs_cons_of_next (exec_push_of_room (room_of_fits_append h) b), ← pushes, ih]
    · simp [List.replicate_succ]
    · simpa using h

/-! ### EXTRACT (R129) -/

theorem exec_extract_of_ok {s : State} {r : ExtractResult} (h : tryExtractOne s.rxbuf = .ok r) :
    exec (.extract .rx) s = .next { s with
      rxbuf := s.rxbuf.drop r.discard
      history := s.history ++ route r.unit
      rxResponses := s.rxResponses ++ [{ status := .ok, body := .result r }] } := by
  rw [exec, execExtract, onPort_own rfl, h, extractWith_ok]

/-- Bytes pushed into an empty buffer and extracted (R79, R129). -/
theorem runInstrs_pushes_extract {bs : List Byte} {s : State} {r : ExtractResult}
    (hempty : s.rxbuf = []) (hfits : Memory.fits s.config bs = true)
    (hr : tryExtractOne bs = .ok r) :
    ∃ u, runInstrs (pushes bs ++ [.extract .rx]) s = .next u ∧ u.rxbuf = bs.drop r.discard
      ∧ u.rxResponses.getLast? = some { status := .ok, body := .result r } := by
  rw [runInstrs_pushes bs _ (by rwa [hempty]),
    runInstrs_cons_of_next (exec_extract_of_ok (by rwa [hempty]))]
  exact ⟨_, rfl, by simp [hempty], by simp⟩

/-! ### The data branch on a data frame (R105, R126) -/

/-- The data branch reads the fields of a complete frame off its bytes, whatever follows them. -/
theorem scanData_frame {h : Byte} {idBytes payload : List Byte}
    (hid : idBytes.length = idWidth (headerExt h)) (hp : payload.length = headerDlc h)
    (first t : Byte) (rest : Memory) :
    scanData h (first :: t :: (idBytes ++ (payload ++ STOP :: rest))) = .ok
      { discard := totalLength h
        unit := .data (decodeDataFrame h idBytes payload)
        reason := .dataOk } := by
  have hlast : totalLength h - 1 = idBytes.length + payload.length + 2 := by
    rw [totalLength, hid, hp]; omega
  have hstop : (first :: t :: (idBytes ++ (payload ++ STOP :: rest)))[totalLength h - 1]?
      = some STOP := by
    rw [hlast]
    simp
  rw [scanData_ok hstop, ← hid, ← hp]
  simp [Nat.add_comm 2]

/-- A data header in front of two bytes or more is the data branch's (R123). -/
theorem tryExtractOne_wireHeader (ext bit4 : Bool) (dlc : BitVec 4) {rest : Memory}
    (h : 2 ≤ rest.length) :
    tryExtractOne (START :: wireHeader ext bit4 dlc :: rest)
      = scanData (wireHeader ext bit4 dlc) (START :: wireHeader ext bit4 dlc :: rest) := by
  match rest, h with
  | a :: b :: rest, _ => rw [tryExtractOne_pass, scanType, classify_wireHeader]

/-- An identifier within its wire field comes back from the identifier bytes (R105, R107). -/
theorem decodeDataFrame_encodeId {id : Word32} {ext : Bool} (hid : ext = false → id.toNat < 2 ^ 16)
    (bit4 : Bool) (dlc : BitVec 4) (payload : List Byte) :
    decodeDataFrame (wireHeader ext bit4 dlc) (encodeId ext id) payload =
      { identifier := id
        addressWidth := if ext then .extended else .standard
        payload := payload } := by
  have hfield : fromLE (encodeId ext id) = id.toNat := by
    rw [fromLE_encodeId]
    cases ext
    · exact Nat.mod_eq_of_lt (hid rfl)
    · rfl
  simp [decodeDataFrame, hfield]

/-- Decoding the bytes of an encoded frame gives the frame, and takes all of them (R107). -/
theorem tryExtractOne_encodeDataFrame {id : Word32} {ext : Bool} {dlc : BitVec 4}
    {payload : List Byte} (hid : ext = false → id.toNat < 2 ^ 16)
    (hp : dlc.toNat ≤ payload.length) :
    tryExtractOne (encodeDataFrame id ext dlc payload) = .ok
      { discard := (encodeDataFrame id ext dlc payload).length
        unit := .data
          { identifier := id
            addressWidth := if ext then .extended else .standard
            payload := payload.take dlc.toNat }
        reason := .dataOk } := by
  have hw : 2 ≤ idWidth ext := by cases ext <;> decide
  rw [encodeDataFrame_length id ext dlc payload hp, encodeDataFrame_eq,
    tryExtractOne_wireHeader ext false dlc (by simp; omega),
    scanData_frame (by simp) (by simp [hp]), decodeDataFrame_encodeId hid]

/-! ### The wire rows on a buffer that passes the gate (log 7) -/

/-- A data row is its header's data branch, applied and answered (R126). -/
theorem exec_dataRow_of_pass {s : State} {rest : Memory} {r : ExtractResult} {ext bit4 : Bool}
    {dlc : BitVec 4} (hs : s.rxbuf = START :: rest) (hlen : 3 ≤ rest.length)
    (hr : scanData (wireHeader ext bit4 dlc) s.rxbuf = .ok r) :
    exec (if ext then .wireDataExt bit4 dlc else .wireDataStd bit4 dlc) s = .next { s with
      rxbuf := s.rxbuf.drop r.discard
      history := s.history ++ route r.unit
      rxResponses := s.rxResponses ++ [{ status := .ok, body := .result r }] } := by
  have hrow : exec (if ext then .wireDataExt bit4 dlc else .wireDataStd bit4 dlc) s
      = wireStep (scanData (wireHeader ext bit4 dlc)) s := by
    cases ext <;> rfl
  rw [hrow, wireStep_pass hs hlen, hr, extractWith_ok]

/-- The branch of the unrecognized types takes the start marker and the type byte (R128). -/
theorem wireStep_scanUnknown {s : State} {x a b : Byte} {rest : Memory}
    (hs : s.rxbuf = START :: x :: a :: b :: rest) :
    wireStep (fun _ => scanUnknown) s = .next { s with
      rxbuf := a :: b :: rest
      rxResponses := s.rxResponses ++ [{
        status := .ok
        body := .result { discard := 2, unit := .none, reason := .unknownType } }] } := by
  rw [wireStep_pass hs (by simp), scanUnknown, extractWith_ok]
  simp [skip, route, hs]

/-- A configuration type byte inbound is no type the scanner knows (R108, R128). -/
theorem tryExtractOne_typeConfig {rest : Memory} (h : 2 ≤ rest.length) :
    tryExtractOne (START :: TYPE_CONFIG :: rest) = .ok (skip 2 .unknownType) := by
  match rest, h with
  | a :: b :: rest, _ => rw [tryExtractOne_pass]; rfl

/-! ### The obligations of the codec family -/

/-- Settles O32: the frame fits any legal capacity, so its bytes stand in the buffer as they were
emitted, and extraction reads its fields back off them. -/
theorem roundTripThroughTheScanner : Obligations.RoundTripThroughTheScanner := by
  intro s id ext dlc payload hlegal hempty hdlc hpayload hid
  have hp : dlc.toNat ≤ payload.length := hpayload ▸ hdlc
  have hlen : (encodeDataFrame id ext dlc payload).length ≤ MAX_FRAME_LEN :=
    encodeDataFrame_length id ext dlc payload hp ▸ totalLength_le _
  obtain ⟨u, hrun, hbuf, hlast⟩ := runInstrs_pushes_extract
    (s := { s with
      history := s.history ++ (encodeDataFrame id ext dlc payload).map Event.tx
      txResponses := s.txResponses ++ [Response.plain .ok] })
    hempty (fits_of_length_le hlegal hlen) (tryExtractOne_encodeDataFrame hid hp)
  refine ⟨_, _, u, (exec_encodeData_of_fits s hdlc).trans (transmit_eq _ s), ?_, hrun, ?_, hlast⟩
  · simp [State.tx, List.filterMap_map]
  · rw [hbuf, List.drop_length]

/-- Settles O33: the record's operands are its fields, and the two outcomes part at eight bytes. -/
theorem encodeDataEmitsTheFrame : Obligations.EncodeDataEmitsTheFrame := by
  refine ⟨fun r hop => ⟨_, _, _, _, rfl, decodeRecord_encodeData .tx hop⟩,
    fun s id ext dlc payload => ⟨exec_encodeData_of_tooLong s, fun hdlc => ?_⟩⟩
  rw [exec_encodeData_of_fits s hdlc, transmit_eq, encodeDataFrame_eq_leBytes]

/-- Settles O34: the second byte on `tx` is the header, whose number is the sum of its fields. -/
theorem encodedHeaderByte : Obligations.EncodedHeaderByte := by
  intro s id ext dlc payload hdlc
  obtain ⟨t, ht, hout⟩ := exec_encodeData_tx (id := id) (ext := ext) (payload := payload) s hdlc
  obtain ⟨hmatch, hext, hbit4, hfield⟩ := encodeHeader_fields ext dlc
  have hnum := encodeHeader_toNat ext dlc
  refine ⟨t, encodeHeader ext dlc, ht, by rw [hout]; rfl, hmatch, hext, hbit4, hfield, ?_, ?_⟩
  · rintro rfl
    simp only [Bool.false_eq_true, if_false] at hnum
    omega
  · rintro rfl
    simp only [if_true] at hnum
    omega

/-- Settles O35: the bytes behind the header are the identifier field. -/
theorem encodedIdentifierIsTruncated : Obligations.EncodedIdentifierIsTruncated := by
  intro s id ext dlc payload hdlc
  obtain ⟨t, ht, hout⟩ := exec_encodeData_tx (id := id) (ext := ext) (payload := payload) s hdlc
  refine ⟨t, ht, ?_⟩
  rw [hout, ← idWidth, encodeDataFrame_idBytes, fromLE_encodeId]

/-- Settles O36: the record's operands are its fields, each emitted in its little-endian form. -/
theorem encodeConfigEmitsSixteenBytes : Obligations.EncodeConfigEmitsSixteenBytes := by
  refine ⟨fun r hop => ⟨_, _, _, _, _, _, decodeRecord_encodeConfig .tx hop⟩,
    fun s bitrate term silent erpt filterId filterMask => ⟨?_, ?_, ?_⟩⟩
  · simp [leBytes_length]
  · have := term.toNat_le
    have := silent.toNat_le
    have := erpt.toNat_le
    omega
  · rw [exec_encodeConfig, transmit_eq, encodeConfiguration_eq_leBytes]

/-- Settles O45: the three answers of the data branch, its total length that of the row's header. -/
theorem wireDataRowsDecode : Obligations.WireDataRowsDecode := by
  intro ext bit4 dlc s x rest hrest hs
  have htotal : totalLength (wireHeader ext bit4 dlc) = dlc.toNat + 3 + if ext then 4 else 2 :=
    totalLength_wireHeader ext dlc bit4
  have hlen : 3 ≤ (x :: rest).length := Nat.succ_le_succ hrest
  refine ⟨fun hshort => ?_, fun last hlast hbad => ?_, fun hstop => ?_⟩
  · rw [← htotal] at hshort
    rw [exec_dataRow_of_pass hs hlen (scanData_short hshort)]
    simp [waitFor, route]
  · rw [← htotal] at hlast ⊢
    rw [exec_dataRow_of_pass hs hlen (scanData_badStop hlast hbad)]
    simp [skip, route]
  · rw [← htotal] at hstop ⊢
    rw [exec_dataRow_of_pass hs hlen (scanData_ok hstop)]
    simp [route, decodeDataFrame, idWidth]

/-- Settles O47: both rows run the branch of the unrecognized types. -/
theorem unrecognizedRowsDiscardTwo : Obligations.UnrecognizedRowsDiscardTwo :=
  fun _ _ _ _ _ _ hs => ⟨wireStep_scanUnknown hs, wireStep_scanUnknown hs⟩

/-- Settles O48: the type byte of the emitted frame is the configuration type. -/
theorem configurationFrameIsUnrecognized : Obligations.ConfigurationFrameIsUnrecognized := by
  intro s s' t bitrate term silent erpt filterId filterMask out rest hexec htx hbuf
  rw [exec_encodeConfig] at hexec
  obtain ⟨u, hu, hout⟩ := transmit_tx
    (out := encodeConfiguration bitrate term silent erpt filterId filterMask) (s := s)
  obtain rfl := Host.Outcome.next.inj (hu.symm.trans hexec)
  rw [htx, List.drop_left] at hout
  subst hout
  have hstep : tryExtractOne t.rxbuf = .ok (skip 2 .unknownType) := by
    rw [hbuf]
    exact tryExtractOne_typeConfig (by simp [le32])
  rw [exec_extract_of_ok hstep, hbuf]
  simp [skip, route, encodeConfiguration]

/-- Settles O50: each notification has its code, and every code from 5 up is a failure. -/
theorem errorCodesDecode : Obligations.ErrorCodesDecode :=
  ⟨decodeError_code .unknown, decodeError_code .busOvercurrent, decodeError_code .busOvervoltage,
    decodeError_code .busTransmitFailure, decodeError_code .transmitBufferFull,
    fun _ => decodeError_of_five_le⟩

end Sys2Proof.Machine

/-!
PROOFS of the scanner family: the RX agent's commands, the extraction function and the laws of the
stream. The development rests on three facts: what one extraction step can answer on any buffer is
said once (`tryExtractOne_cases`), DRAIN computes the relation of R132 (`exec_drain_of_drains`), and
a command of a stream changes nothing of what the state comes to, once more bytes are pushed and all
is drained, but by the bytes it takes (`Takes.completes`, `exists_emits_of_exec`).
-/

namespace Sys2Proof.Machine

/-! ### PUSH into a full buffer (R121) -/

section
variable {s : State} (hfull : s.config.rxbufCap = some s.rxbuf.length) (data : Byte)
include hfull

theorem exec_push_of_noise (hs : START ∉ s.rxbuf) :
    exec (.push .rx data) s = .next { s with
      rxbuf := [data]
      rxResponses := s.rxResponses ++ [Response.plain .ok] } := by
  rw [exec, execPush, onPort_own rfl, if_pos hfull, pushFull_eq, if_neg hs]

theorem exec_push_of_full (hs : START ∈ s.rxbuf) :
    exec (.push .rx data) s =
      .next { s with rxResponses := s.rxResponses ++ [Response.plain .bufFull] } := by
  rw [exec, execPush, onPort_own rfl, if_pos hfull, pushFull_eq, if_pos hs]

end

/-! ### The extraction function on each form of a buffer (R124 to R128) -/

theorem tryExtractOne_noMarker {m : Memory} (hm : START ∉ m) :
    tryExtractOne m = .ok (waitFor .waitNoMarker) :=
  scanGate_noMarker hm _

theorem tryExtractOne_noise {noise : Memory} (hne : noise ≠ []) (hn : START ∉ noise)
    (rest : Memory) : tryExtractOne (noise ++ START :: rest) = .ok (skip noise.length .noise) :=
  scanGate_noise hne hn rest _

theorem tryExtractOne_short {rest : Memory} (hlen : rest.length < 3) :
    tryExtractOne (START :: rest) = .ok (waitFor .waitShort) :=
  scanGate_short hlen _

/-- A data header in front of two bytes or more is the data branch's (R126). -/
theorem tryExtractOne_dataHeader {h : Byte} (hdata : h &&& DATA_TYPE_MASK = DATA_TYPE_MATCH)
    {rest : Memory} (hlen : 2 ≤ rest.length) :
    tryExtractOne (START :: h :: rest) = scanData h (START :: h :: rest) := by
  obtain ⟨ext, bit4, dlc, rfl⟩ := exists_wireHeader_eq hdata
  exact tryExtractOne_wireHeader ext bit4 dlc hlen

theorem tryExtractOne_typeError (code last : Byte) (rest : Memory) :
    tryExtractOne (START :: TYPE_ERROR :: code :: last :: rest)
      = scanError (START :: TYPE_ERROR :: code :: last :: rest) := by
  rw [tryExtractOne_pass]
  rfl

theorem scanType_unknown {h : Byte} (hdata : h &&& DATA_TYPE_MASK ≠ DATA_TYPE_MATCH)
    (herror : h ≠ TYPE_ERROR) (m : Memory) : scanType h m = scanUnknown := by
  rw [scanType, classify, if_neg hdata, if_neg herror]

theorem tryExtractOne_unknown {h : Byte} (hdata : h &&& DATA_TYPE_MASK ≠ DATA_TYPE_MATCH)
    (herror : h ≠ TYPE_ERROR) (a b : Byte) (rest : Memory) :
    tryExtractOne (START :: h :: a :: b :: rest) = .ok (skip 2 .unknownType) :=
  (tryExtractOne_pass h a b rest).trans (scanType_unknown hdata herror _)

/-- The extended flag of a header is its bit 5 (R63). -/
theorem headerExt_eq_getLsbD (h : Byte) : headerExt h = h.getLsbD 5 := by
  revert h; decide

/-! ### What one extraction step can answer -/

/-- A branch of step 3 settles buffer `m` as `r`: it discards bytes the buffer holds, not as noise,
and bytes that follow do not change its answer. -/
def Settles (branch : Memory → Except Fault ExtractResult) (m : Memory) (r : ExtractResult) :
    Prop :=
  0 < r.discard ∧ r.discard ≤ m.length ∧ r.reason ≠ .noise ∧ ∀ more, branch (m ++ more) = .ok r

/-- The data branch waits for the frame's bytes or settles the frame (R126). -/
theorem scanData_waits_or_settles {h : Byte} {m : Memory} {r : ExtractResult}
    (hr : scanData h m = .ok r) :
    (m.length < totalLength h ∧ r = waitFor .waitData) ∨ Settles (scanData h) m r := by
  have hpos := five_le_totalLength h
  obtain ⟨hlen, heq⟩ | ⟨last, hlast, hbad, heq⟩ | ⟨hstop, heq⟩ := scanData_cases h m <;>
    obtain rfl := Except.ok.inj (heq.symm.trans hr)
  · exact .inl ⟨hlen, rfl⟩
  · have hlt := (List.getElem?_eq_some_iff.mp hlast).1
    refine .inr ⟨by simp only [skip]; omega, by simp only [skip]; omega, by simp [skip],
      fun more => scanData_badStop ?_ hbad⟩
    rwa [List.getElem?_append_left hlt]
  · have hlt := (List.getElem?_eq_some_iff.mp hstop).1
    refine .inr ⟨by simp only; omega, by simp only; omega, by simp, fun more => ?_⟩
    have htotal : totalLength h = headerDlc h + 3 + idWidth (headerExt h) := rfl
    rw [scanData_ok (by rwa [List.getElem?_append_left hlt]),
      List.drop_append_of_le_length (by omega), List.drop_append_of_le_length (by omega),
      List.take_append_of_le_length (by simp; omega),
      List.take_append_of_le_length (by simp; omega)]

/-- The error branch settles its four bytes (R127). -/
theorem scanError_settles {first t code last : Byte} {rest : Memory} {r : ExtractResult}
    (hr : scanError (first :: t :: code :: last :: rest) = .ok r) :
    Settles scanError (first :: t :: code :: last :: rest) r := by
  have hmore : ∀ more, scanError (first :: t :: code :: last :: rest ++ more) = .ok r := by
    intro more
    rw [← hr]
    simp only [List.cons_append, scanError_eq]
  have hfour : r.discard = 4 ∧ r.reason ≠ .noise := by
    rw [scanError_eq] at hr
    split_ifs at hr
    · obtain ⟨e, hd, -⟩ | ⟨hd, -⟩ := decodeError_cases code <;> rw [hd] at hr <;> cases hr <;> simp
    · cases hr; simp [skip]
  obtain ⟨h4, hnoise⟩ := hfour
  exact ⟨by omega, by simp [h4], hnoise, hmore⟩

/-- Step 3 waits for the bytes of a data frame or settles what is in front (R126, R127, R128). -/
theorem scanType_waits_or_settles {h a b : Byte} {rest : Memory} {r : ExtractResult}
    (hr : scanType h (START :: h :: a :: b :: rest) = .ok r) :
    ((START :: h :: a :: b :: rest).length < totalLength h ∧ r = waitFor .waitData)
      ∨ Settles (scanType h) (START :: h :: a :: b :: rest) r := by
  cases hclass : classify h with
  | data =>
    simp only [scanType, hclass] at hr
    simpa only [Settles, scanType, hclass] using scanData_waits_or_settles hr
  | error =>
    simp only [scanType, hclass] at hr
    simpa only [Settles, scanType, hclass] using Or.inr (scanError_settles hr)
  | unrecognized =>
    simp only [scanType, hclass, scanUnknown] at hr
    cases hr
    exact .inr ⟨by simp [skip], by simp [skip], by simp [skip], fun more => by
      rw [scanType, hclass]; rfl⟩

/-- What one extraction step can answer, by the form of the buffer: steps 1 and 2 wait or discard
noise; step 3 waits for the bytes of a data frame, or settles what is in front. -/
theorem tryExtractOne_cases {m : Memory} {r : ExtractResult} (hr : tryExtractOne m = .ok r) :
    (START ∉ m ∧ r = waitFor .waitNoMarker)
      ∨ (∃ noise rest, noise ≠ [] ∧ START ∉ noise ∧ m = noise ++ START :: rest
          ∧ r = skip noise.length .noise)
      ∨ (∃ rest, m = START :: rest ∧ rest.length < 3 ∧ r = waitFor .waitShort)
      ∨ (∃ rest, m = START :: rest ∧ 3 ≤ rest.length ∧ m.length < MAX_FRAME_LEN
          ∧ r = waitFor .waitData)
      ∨ (∃ rest, m = START :: rest ∧ 3 ≤ rest.length ∧ Settles tryExtractOne m r) := by
  obtain hno | ⟨noise, rest, hne, hn, rfl⟩ | ⟨rest, rfl, hlen⟩ | ⟨h, a, b, rest, rfl⟩ :=
    buffer_forms m
  · rw [tryExtractOne_noMarker hno] at hr
    exact .inl ⟨hno, (Except.ok.inj hr).symm⟩
  · rw [tryExtractOne_noise hne hn] at hr
    exact .inr (.inl ⟨noise, rest, hne, hn, rfl, (Except.ok.inj hr).symm⟩)
  · rw [tryExtractOne_short hlen] at hr
    exact .inr (.inr (.inl ⟨rest, rfl, hlen, (Except.ok.inj hr).symm⟩))
  · rw [tryExtractOne_pass] at hr
    obtain ⟨hlen, hwait⟩ | ⟨hpos, hle, hnoise, hmore⟩ := scanType_waits_or_settles hr
    · exact .inr (.inr (.inr (.inl ⟨_, rfl, by simp, hlen.trans_le (totalLength_le h), hwait⟩)))
    · refine .inr (.inr (.inr (.inr ⟨_, rfl, by simp, hpos, hle, hnoise, fun more => ?_⟩)))
      rw [← hmore more]
      exact tryExtractOne_pass h a b (rest ++ more)

/-! ### Bounds and stability of one extraction step (R131, R134) -/

theorem isWait_iff {reason : Reason} : reason.isWait = true ↔
    reason = .waitNoMarker ∨ reason = .waitShort ∨ reason = .waitData := by
  cases reason <;> simp [Reason.isWait]

/-- A lawful result discards nothing exactly when its reason is one of waiting. -/
theorem discard_eq_zero_iff_isWait {r : ExtractResult} (hr : r.lawful = true) :
    r.discard = 0 ↔ r.reason.isWait = true := by
  obtain ⟨discard, unit, reason⟩ := r
  cases unit with
  | none =>
    cases reason <;> simp_all [ExtractResult.lawful, Reason.isWait, ERROR_FRAME_LEN] <;> omega
  | data f =>
    simp only [ExtractResult.lawful, Bool.and_eq_true, beq_iff_eq] at hr
    obtain ⟨⟨rfl, rfl⟩, -⟩ := hr
    simp [CanFrame.wireLength, Reason.isWait]
  | error e | decodeFailure c => simp_all [ExtractResult.lawful, Reason.isWait, ERROR_FRAME_LEN]

theorem discard_le_length {m : Memory} {r : ExtractResult} (hr : tryExtractOne m = .ok r) :
    r.discard ≤ m.length := by
  obtain ⟨-, rfl⟩ | ⟨noise, rest, -, -, rfl, rfl⟩ | ⟨_, -, -, rfl⟩ | ⟨_, -, -, -, rfl⟩
    | ⟨_, -, -, -, hle, -⟩ := tryExtractOne_cases hr
  · exact Nat.zero_le _
  · simp [skip]
  · exact Nat.zero_le _
  · exact Nat.zero_le _
  · exact hle

theorem tryExtractOne_append {m : Memory} {r : ExtractResult} (hr : tryExtractOne m = .ok r)
    (h0 : r.discard ≠ 0) (more : Memory) : tryExtractOne (m ++ more) = .ok r := by
  obtain ⟨-, rfl⟩ | ⟨noise, rest, hne, hn, rfl, rfl⟩ | ⟨_, -, -, rfl⟩ | ⟨_, -, -, -, rfl⟩
    | ⟨_, -, -, -, -, -, hmore⟩ := tryExtractOne_cases hr
  · exact absurd rfl h0
  · rw [List.append_assoc]
    exact tryExtractOne_noise hne hn (rest ++ more)
  · exact absurd rfl h0
  · exact absurd rfl h0
  · exact hmore more

/-- A buffer that holds a start marker and a frame's length of bytes does not wait (R121). -/
theorem discard_ne_zero_of_marker {m : Memory} {r : ExtractResult} (hr : tryExtractOne m = .ok r)
    (hs : START ∈ m) (hlen : MAX_FRAME_LEN ≤ m.length) : r.discard ≠ 0 := by
  obtain ⟨hno, -⟩ | ⟨noise, rest, hne, -, -, rfl⟩ | ⟨rest, rfl, hshort, -⟩ | ⟨_, -, -, hlt, -⟩
    | ⟨_, -, -, hpos, -⟩ := tryExtractOne_cases hr
  · exact absurd hs hno
  · simpa [skip] using hne
  · simp only [MAX_FRAME_LEN, List.length_cons] at hlen
    omega
  · omega
  · omega

/-! ### Results and their events -/

/-- The results that are no waiting (R135). -/
def nonWaiting (rs : List ExtractResult) : List ExtractResult := rs.filter fun r => !r.reason.isWait

/-- The events of results, in order (R130). -/
def routed (rs : List ExtractResult) : List Event := rs.flatMap fun r => route r.unit

@[simp] theorem routed_nil : routed [] = [] := rfl

theorem nonWaiting_append (rs rs' : List ExtractResult) :
    nonWaiting (rs ++ rs') = nonWaiting rs ++ nonWaiting rs' :=
  List.filter_append ..

@[simp] theorem routed_cons (r : ExtractResult) (rs : List ExtractResult) :
    routed (r :: rs) = route r.unit ++ routed rs := rfl

@[simp] theorem routed_append (rs rs' : List ExtractResult) :
    routed (rs ++ rs') = routed rs ++ routed rs' := by
  simp [routed]

/-! ### DRAIN computes the relation of R132 -/

theorem drainLoop_of_empty {s : State} (h : s.rxbuf = []) (fuel : Nat) :
    drainLoop fuel s = .ok ((s.setRxbuf []).emit (routed []), []) := by
  rw [drainLoop_empty h, ← h, routed_nil, emit_nil, setRxbuf_self]

/-- DRAIN's loop, with fuel for the buffer it starts from, ends as the relation says. -/
theorem drainLoop_drains {fuel : Nat} {s : State} (hfuel : s.rxbuf.length ≤ fuel) :
    ∃ rs rest, Drains s.rxbuf rs rest
      ∧ drainLoop fuel s = .ok ((s.setRxbuf rest).emit (routed rs), rs) := by
  induction fuel generalizing s with
  | zero =>
    have hempty : s.rxbuf = [] := List.eq_nil_of_length_eq_zero (by omega)
    exact ⟨[], [], hempty ▸ .empty, drainLoop_of_empty hempty 0⟩
  | succ fuel ih =>
    by_cases hempty : s.rxbuf = []
    · exact ⟨[], [], hempty ▸ .empty, drainLoop_of_empty hempty _⟩
    · obtain ⟨r, hr⟩ := tryExtractOne_answers s.rxbuf
      by_cases hwait : r.discard = 0
      · refine ⟨[r], s.rxbuf, .wait hempty hr hwait, ?_⟩
        rw [drainLoop_wait hempty hr hwait]
        simp [State.applyResult, State.discard, hwait]
      · have hlen : (s.applyResult r).rxbuf.length ≤ fuel := by
          simp only [applyResult_rxbuf, List.length_drop]
          omega
        obtain ⟨rs, rest, hdrains, hloop⟩ := ih hlen
        refine ⟨r :: rs, rest, .more hempty hr hwait hdrains, ?_⟩
        rw [drainLoop_more hempty hr hwait hloop]
        simp [State.applyResult, State.discard]

namespace Drains

variable {m rest rest' : Memory} {rs rs' : List ExtractResult}

theorem unique (h : Drains m rs rest) (h' : Drains m rs' rest') : rs = rs' ∧ rest = rest' := by
  induction h generalizing rs' rest' with
  | empty =>
    cases h' with
    | empty => exact ⟨rfl, rfl⟩
    | wait nonempty | more nonempty => exact absurd rfl nonempty
  | wait nonempty step waits =>
    cases h' with
    | empty => exact absurd rfl nonempty
    | wait _ step' =>
      obtain rfl := Except.ok.inj (step.symm.trans step')
      exact ⟨rfl, rfl⟩
    | more _ step' discards' =>
      obtain rfl := Except.ok.inj (step.symm.trans step')
      exact absurd waits discards'
  | more nonempty step discards _ ih =>
    cases h' with
    | empty => exact absurd rfl nonempty
    | wait _ step' waits' =>
      obtain rfl := Except.ok.inj (step.symm.trans step')
      exact absurd waits' discards
    | more _ step' _ loop' =>
      obtain rfl := Except.ok.inj (step.symm.trans step')
      obtain ⟨rfl, rfl⟩ := ih loop'
      exact ⟨rfl, rfl⟩

/-- R133: every result but a last one that waits takes a byte. -/
theorem length_le (h : Drains m rs rest) : rs.length ≤ m.length := by
  induction h with
  | empty => simp
  | wait nonempty => exact List.length_pos_iff.mpr nonempty
  | @more m _ r rs nonempty _ discards _ ih =>
    have hpos : 0 < m.length := List.length_pos_iff.mpr nonempty
    simp only [List.length_drop, List.length_cons] at ih ⊢
    omega

theorem dropLast_discards (h : Drains m rs rest) : ∀ r ∈ rs.dropLast, 1 ≤ r.discard := by
  induction h with
  | empty | wait => simp
  | @more m _ r rs _ _ discards _ ih =>
    cases rs with
    | nil => simp
    | cons r' rs =>
      rw [List.dropLast_cons_cons, List.forall_mem_cons]
      exact ⟨Nat.one_le_iff_ne_zero.mpr discards, ih⟩

/-- The loop ends on the empty buffer or with a step that waits (R132). -/
theorem ends (h : Drains m rs rest) :
    rest = [] ∨ ∃ r, rs.getLast? = some r ∧ r.discard = 0 ∧ r.reason.isWait = true := by
  induction h with
  | empty => exact .inl rfl
  | wait _ step waits =>
    exact .inr ⟨_, rfl, waits, (discard_eq_zero_iff_isWait (tryExtractOne_lawful step)).mp waits⟩
  | more _ _ _ _ ih =>
    refine ih.imp_right ?_
    rintro ⟨w, hlast, hwaits⟩
    exact ⟨w, by simp [List.getLast?_cons, hlast], hwaits⟩

theorem rest_eq_drop (h : Drains m rs rest) :
    rest = m.drop (rs.map ExtractResult.discard).sum := by
  induction h with
  | empty => rfl
  | wait _ _ waits => simp [waits]
  | more _ _ _ _ ih => simpa using ih

theorem sum_discard_add_length (h : Drains m rs rest) :
    (rs.map ExtractResult.discard).sum + rest.length = m.length := by
  induction h with
  | empty => rfl
  | wait _ _ waits => simp [waits]
  | more _ step _ _ ih =>
    have hle := discard_le_length step
    simp only [List.length_drop, List.map_cons, List.sum_cons] at ih ⊢
    omega

end Drains

theorem exists_drains (m : Memory) : ∃ rs rest, Drains m rs rest := by
  obtain ⟨rs, rest, h, -⟩ := drainLoop_drains (s := State.reset.setRxbuf m) le_rfl
  exact ⟨rs, rest, h⟩

theorem exec_drain_of_drains {s : State} {rs : List ExtractResult} {rest : Memory}
    (h : Drains s.rxbuf rs rest) :
    exec (.drain .rx) s = .next { s with
      rxbuf := rest
      history := s.history ++ routed rs
      rxResponses := s.rxResponses ++ [{ status := .ok, body := .results rs }] } := by
  obtain ⟨rs', rest', h', hloop⟩ := drainLoop_drains (s := s) le_rfl
  obtain ⟨rfl, rfl⟩ := h.unique h'
  rw [exec, execDrain, onPort_own rfl, hloop]
  rfl

/-! ### The wire rows (R123, log 7) -/

/-- The row a type byte decodes to is the extraction step whose step 3 is that type byte's. -/
theorem exec_decodeType (h : Byte) (s : State) :
    exec (decodeType h) s = wireStep (scanType h) s := by
  obtain ⟨ext, bit4, dlc, rfl⟩ | rfl | rfl | hu := typeByte_cases h
  · have hscan : scanType (wireHeader ext bit4 dlc) = scanData (wireHeader ext bit4 dlc) := by
      funext m
      rw [scanType, classify_wireHeader]
    rw [decodeType_wireHeader, hscan]
    cases ext <;> rfl
  · rfl
  · rfl
  · obtain ⟨hlt, herror, -⟩ := isUnknownType_iff.mp hu
    have hscan : scanType h = fun _ => scanUnknown :=
      funext (scanType_unknown (and_dataTypeMask_iff.not.mpr (not_le.mpr hlt)) herror)
    rw [decodeType_unknown hu, hscan]
    rfl

/-! ### Draining a buffer with more bytes to come (R134, R135) -/

/-- Draining `m`, whatever bytes come later, begins with the results `rs` and goes on from `m'`, up
to results that wait. -/
def Begins (m : Memory) (rs : List ExtractResult) (m' : Memory) : Prop :=
  ∀ more rs' rest, Drains (m' ++ more) rs' rest → ∃ rs'', Drains (m ++ more) rs'' rest
    ∧ nonWaiting rs'' = nonWaiting (rs ++ rs') ∧ routed rs'' = routed (rs ++ rs')

theorem Begins.refl (m : Memory) : Begins m [] m := fun _ rs' _ h => ⟨rs', h, rfl, rfl⟩

theorem Begins.trans {m m' m'' : Memory} {rs rs' : List ExtractResult} (h : Begins m rs m')
    (h' : Begins m' rs' m'') : Begins m (rs ++ rs') m'' := by
  intro more ws rest hws
  obtain ⟨ws', hws', hprogress', hroute'⟩ := h' more ws rest hws
  obtain ⟨ws'', hws'', hprogress'', hroute''⟩ := h more ws' rest hws'
  refine ⟨ws'', hws'', ?_, ?_⟩
  · rw [hprogress'', nonWaiting_append, hprogress', ← nonWaiting_append, List.append_assoc]
  · rw [hroute'', routed_append, hroute', ← routed_append, List.append_assoc]

/-- One extraction step: one that waits is no progress and emits nothing, and one that discards
bytes does so whatever comes later (R131, R134). -/
theorem begins_of_step {m : Memory} {r : ExtractResult} (hr : tryExtractOne m = .ok r) :
    Begins m [r] (m.drop r.discard) := by
  intro more rs rest h
  by_cases h0 : r.discard = 0
  · have hlawful := tryExtractOne_lawful hr
    have hwait := (discard_eq_zero_iff_isWait hlawful).mp h0
    have hunit := unit_eq_none_of_discard_eq_zero hlawful h0
    exact ⟨rs, by simpa [h0] using h, by simp [nonWaiting, hwait], by simp [routed, hunit, route]⟩
  · have hle := discard_le_length hr
    have hne : m ++ more ≠ [] := by
      intro hempty
      obtain ⟨rfl, -⟩ := List.append_eq_nil_iff.mp hempty
      exact h0 (Nat.le_zero.mp hle)
    refine ⟨r :: rs, .more hne (tryExtractOne_append hr h0 more) h0 ?_, rfl, rfl⟩
    rwa [List.drop_append_of_le_length hle]

/-- Draining before more bytes come begins the draining of all of them. -/
theorem Drains.begins {m rest : Memory} {rs : List ExtractResult} (h : Drains m rs rest) :
    Begins m rs rest := by
  induction h with
  | empty => exact Begins.refl []
  | wait _ step waits => simpa [waits] using begins_of_step step
  | more _ step _ _ ih => exact (begins_of_step step).trans ih

/-- A buffer without a start marker drains to itself and emits nothing (R124). -/
theorem exists_drains_of_noMarker {m : Memory} (hm : START ∉ m) :
    ∃ rs, Drains m rs m ∧ routed rs = [] := by
  by_cases hempty : m = []
  · subst hempty
    exact ⟨[], .empty, rfl⟩
  · exact ⟨_, .wait hempty (tryExtractOne_noMarker hm) rfl, rfl⟩

/-- Noise in front of a start marker emits nothing (R124). -/
theorem exists_drains_of_noise {noise rest m : Memory} {rs : List ExtractResult}
    (hn : START ∉ noise) (h : Drains (START :: m) rs rest) :
    ∃ rs', Drains (noise ++ START :: m) rs' rest ∧ routed rs' = routed rs := by
  by_cases hne : noise = []
  · subst hne
    exact ⟨rs, h, rfl⟩
  · refine ⟨_, .more (by simp) (tryExtractOne_noise hne hn m) (by simpa [skip] using hne) ?_, rfl⟩
    simpa [skip] using h

/-- Noise thrown away in front of a buffer changes nothing of the events the buffer gives (R121). -/
theorem exists_drains_of_noise_append {noise m rest : Memory} {rs : List ExtractResult}
    (hn : START ∉ noise) (h : Drains m rs rest) :
    ∃ rs' rest', Drains (noise ++ m) rs' rest' ∧ routed rs' = routed rs := by
  by_cases hm : START ∈ m
  · obtain ⟨noise', m', rfl, hn'⟩ := List.eq_append_cons_of_mem hm
    obtain ⟨ws, rest', hws⟩ := exists_drains (START :: m')
    obtain ⟨rs₁, h₁, hroute₁⟩ := exists_drains_of_noise hn' hws
    obtain ⟨rs₂, h₂, hroute₂⟩ :=
      exists_drains_of_noise (noise := noise ++ noise') (by simp [hn, hn']) hws
    obtain ⟨rfl, -⟩ := h.unique h₁
    exact ⟨rs₂, rest', by simpa using h₂, hroute₂.trans hroute₁.symm⟩
  · obtain ⟨rs₁, h₁, hroute₁⟩ := exists_drains_of_noMarker hm
    obtain ⟨rs₂, h₂, hroute₂⟩ := exists_drains_of_noMarker (m := noise ++ m) (by simp [hn, hm])
    obtain ⟨rfl, -⟩ := h.unique h₁
    exact ⟨rs₂, _, h₂, hroute₂.trans hroute₁.symm⟩

/-! ### What a state comes to (R135) -/

/-- `s` comes to the results `ps`, the events `es` and the buffer `rest`: that is what it has once
the bytes `bs` are pushed behind its buffer and all is drained. -/
def Completes (s : State) (bs : List Byte) (ps : List ExtractResult) (es : List Event)
    (rest : Memory) : Prop :=
  ∃ rs, Drains (s.rxbuf ++ bs) rs rest ∧ ps = s.progress ++ nonWaiting rs
    ∧ es = s.history ++ routed rs

/-- The events a state comes to, whatever results and buffer it comes to. -/
def Emits (s : State) (bs : List Byte) (es : List Event) : Prop :=
  ∃ ps rest, Completes s bs ps es rest

/-- `t` is `s` after a command that took the bytes `bs` and answered `v`: the results `v` carries
are a beginning of draining the buffer with those bytes behind it. -/
structure Takes (s : State) (bs : List Byte) (v : Response) (t : State) : Prop where
  config : t.config = s.config
  responses : t.rxResponses = s.rxResponses ++ [v]
  history : t.history = s.history ++ routed v.extractions
  begins : Begins (s.rxbuf ++ bs) v.extractions t.rxbuf

section
variable {s t : State} {bs : List Byte} {ps ps' : List ExtractResult} {es es' : List Event}
  {rest rest' : Memory}

theorem Completes.unique (h : Completes s bs ps es rest) (h' : Completes s bs ps' es' rest') :
    ps = ps' ∧ es = es' ∧ rest = rest' := by
  obtain ⟨rs, hrs, rfl, rfl⟩ := h
  obtain ⟨rs', hrs', rfl, rfl⟩ := h'
  obtain ⟨rfl, rfl⟩ := hrs.unique hrs'
  exact ⟨rfl, rfl, rfl⟩

/-- Two states with the same buffer and history come to the same events, whatever their capacities
and responses. -/
theorem Emits.unique (hbuf : s.rxbuf = t.rxbuf) (hhist : s.history = t.history)
    (h : Emits s bs es) (h' : Emits t bs es') : es = es' := by
  obtain ⟨_, _, rs, hrs, -, rfl⟩ := h
  obtain ⟨_, _, rs', hrs', -, rfl⟩ := h'
  obtain ⟨rfl, -⟩ := (hbuf ▸ hrs).unique hrs'
  rw [hhist]

theorem progress_of_responses {v : Response} (h : t.rxResponses = s.rxResponses ++ [v]) :
    t.progress = s.progress ++ nonWaiting v.extractions := by
  simp [State.progress, nonWaiting, h]

/-- A command changes nothing of what the state comes to but by the bytes it takes. -/
theorem Takes.completes {taken : List Byte} {v : Response} (h : Takes s taken v t)
    (ht : Completes t bs ps es rest) : Completes s (taken ++ bs) ps es rest := by
  obtain ⟨rs, hrs, rfl, rfl⟩ := ht
  obtain ⟨rs', hrs', hprogress, hroute⟩ := h.begins bs rs rest hrs
  refine ⟨rs', by simpa using hrs', ?_, ?_⟩
  · rw [progress_of_responses h.responses, hprogress, nonWaiting_append, List.append_assoc]
  · rw [h.history, hroute, routed_append, List.append_assoc]

theorem Takes.emits {taken : List Byte} {v : Response} (h : Takes s taken v t)
    (ht : Emits t bs es) : Emits s (taken ++ bs) es := by
  obtain ⟨ps, rest, hcomp⟩ := ht
  exact ⟨ps, rest, h.completes hcomp⟩

/-- The noise flush changes nothing of the events the state comes to (R121). -/
theorem emits_of_flush {b : Byte} (hs : START ∉ s.rxbuf) (hbuf : t.rxbuf = [b])
    (hhist : t.history = s.history) (ht : Emits t bs es) : Emits s (b :: bs) es := by
  obtain ⟨_, _, rs, hrs, -, rfl⟩ := ht
  rw [hbuf, List.singleton_append] at hrs
  obtain ⟨rs', rest', hrs', hroute⟩ := exists_drains_of_noise_append hs hrs
  exact ⟨_, rest', rs', hrs', rfl, by rw [hhist, hroute]⟩

/-! ### What the commands of a stream do (R120, R129, R132) -/

theorem isStreamCommand_iff {i : Instr} : isStreamCommand i = true ↔
    (∃ b, i = .push .rx b) ∨ i = .extract .rx ∨ i = .drain .rx := by
  refine ⟨fun h => ?_, ?_⟩
  · unfold isStreamCommand at h
    split at h
    · exact .inl ⟨_, rfl⟩
    · exact .inr (.inl rfl)
    · exact .inr (.inr rfl)
    · cases h
  · rintro (⟨b, rfl⟩ | rfl | rfl) <;> rfl

theorem takes_of_push {b : Byte} (hroom : s.config.rxbufCap ≠ some s.rxbuf.length)
    (h : exec (.push .rx b) s = .next t) : Takes s [b] (Response.plain .ok) t := by
  obtain rfl := Host.Outcome.next.inj ((exec_push_of_room hroom b).symm.trans h)
  exact ⟨rfl, rfl, (List.append_nil _).symm, Begins.refl _⟩

theorem takes_of_push_refused {b : Byte} (hfull : s.config.rxbufCap = some s.rxbuf.length)
    (hs : START ∈ s.rxbuf) (h : exec (.push .rx b) s = .next t) :
    Takes s [] (Response.plain .bufFull) t := by
  obtain rfl := Host.Outcome.next.inj ((exec_push_of_full hfull b hs).symm.trans h)
  exact ⟨rfl, rfl, (List.append_nil _).symm, by rw [List.append_nil]; exact Begins.refl _⟩

theorem exists_takes_of_extract (h : exec (.extract .rx) s = .next t) : ∃ v, Takes s [] v t := by
  obtain ⟨r, hr⟩ := tryExtractOne_answers s.rxbuf
  obtain rfl := Host.Outcome.next.inj ((exec_extract_of_ok hr).symm.trans h)
  exact ⟨{ status := .ok, body := .result r }, rfl, rfl, by simp [Response.extractions],
    by rw [List.append_nil]; exact begins_of_step hr⟩

theorem exists_takes_of_drain (h : exec (.drain .rx) s = .next t) : ∃ v, Takes s [] v t := by
  obtain ⟨rs, rest, hrs⟩ := exists_drains s.rxbuf
  obtain rfl := Host.Outcome.next.inj ((exec_drain_of_drains hrs).symm.trans h)
  exact ⟨{ status := .ok, body := .results rs }, rfl, rfl, rfl,
    by rw [List.append_nil]; exact hrs.begins⟩

/-- DRAIN leaves what the state comes to without more bytes. -/
theorem completes_of_drain (h : exec (.drain .rx) s = .next t) :
    Completes s [] t.progress t.history t.rxbuf := by
  obtain ⟨rs, rest, hrs⟩ := exists_drains s.rxbuf
  obtain rfl := Host.Outcome.next.inj ((exec_drain_of_drains hrs).symm.trans h)
  exact ⟨rs, by simpa using hrs,
    progress_of_responses (v := { status := .ok, body := .results rs }) rfl, rfl⟩

end

/-! ### Runs of a stream (R121, R135) -/

theorem pushedBytes_pushes (bs : List Byte) : pushedBytes (pushes bs) = bs := by
  simp [pushedBytes, pushes, List.filterMap_map]

theorem all_isStreamCommand_pushes (bs : List Byte) : (pushes bs).all isStreamCommand = true := by
  simp [pushes, isStreamCommand]

/-- A run that begins with one command, and the run of the others from the state it leaves. -/
theorem exists_exec_of_runInstrs_cons {i : Instr} {is : List Instr} {s t : State}
    (h : runInstrs (i :: is) s = .next t) :
    ∃ u, exec i s = .next u ∧ runInstrs is u = .next t := by
  obtain ⟨u, hu⟩ := exec_answers i s
  exact ⟨u, hu, (runInstrs_cons_of_next hu is).symm.trans h⟩

/-- Into an unbounded buffer every PUSH is taken (R120). -/
theorem exists_takes_of_exec {i : Instr} {s t : State} (hcap : s.config.rxbufCap = none)
    (hi : isStreamCommand i = true) (h : exec i s = .next t) :
    ∃ v, Takes s (pushedBytes [i]) v t := by
  obtain ⟨b, rfl⟩ | rfl | rfl := isStreamCommand_iff.mp hi
  · exact ⟨_, takes_of_push (by simp [hcap]) h⟩
  · exact exists_takes_of_extract h
  · exact exists_takes_of_drain h

/-- Unbounded buffer: a stream that ends with a DRAIN leaves what the state it starts from comes to
with the bytes the stream PUSHes (R135). -/
theorem completes_of_runInstrs {is : List Instr} {s t : State} (hcap : s.config.rxbufCap = none)
    (his : is.all isStreamCommand = true) (h : runInstrs (is ++ [.drain .rx]) s = .next t) :
    Completes s (pushedBytes is) t.progress t.history t.rxbuf := by
  induction is generalizing s with
  | nil =>
    obtain ⟨u, hu, hnil⟩ := exists_exec_of_runInstrs_cons h
    obtain rfl := Host.Outcome.next.inj hnil
    exact completes_of_drain hu
  | cons i is ih =>
    obtain ⟨hi, his⟩ := Bool.and_eq_true_iff.mp his
    obtain ⟨u, hu, hrun⟩ := exists_exec_of_runInstrs_cons h
    obtain ⟨v, hv⟩ := exists_takes_of_exec hcap hi hu
    have hpushed : pushedBytes (i :: is) = pushedBytes [i] ++ pushedBytes is :=
      List.filterMap_append (l := [i])
    rw [hpushed]
    exact hv.completes (ih (hv.config ▸ hcap) his hrun)

theorem takenBytes_cons_cons (i : Instr) (is : List Instr) (v : Response) (vs : List Response) :
    takenBytes (i :: is) (v :: vs) = takenBytes [i] [v] ++ takenBytes is vs := by
  cases i with
  | push p b =>
    cases p with
    | rx => by_cases hok : v.status = .ok <;> simp [takenBytes, hok]
    | tx => simp [takenBytes]
  | _ => simp [takenBytes]

/-- Whatever the capacity, a command changes nothing of the events the state comes to but by the
byte it takes (R121). -/
theorem exists_emits_of_exec {i : Instr} {s t : State} (hi : isStreamCommand i = true)
    (h : exec i s = .next t) : ∃ v, t.rxResponses = s.rxResponses ++ [v]
      ∧ ∀ bs es, Emits t bs es → Emits s (takenBytes [i] [v] ++ bs) es := by
  obtain ⟨b, rfl⟩ | rfl | rfl := isStreamCommand_iff.mp hi
  · by_cases hfull : s.config.rxbufCap = some s.rxbuf.length
    · by_cases hs : START ∈ s.rxbuf
      · have htakes := takes_of_push_refused hfull hs h
        exact ⟨_, htakes.responses, fun _ _ => htakes.emits⟩
      · obtain rfl := Host.Outcome.next.inj ((exec_push_of_noise hfull b hs).symm.trans h)
        exact ⟨_, rfl, fun _ _ => emits_of_flush hs rfl rfl⟩
    · have htakes := takes_of_push hfull h
      exact ⟨_, htakes.responses, fun _ _ => htakes.emits⟩
  · obtain ⟨v, htakes⟩ := exists_takes_of_extract h
    exact ⟨v, htakes.responses, fun _ _ => htakes.emits⟩
  · obtain ⟨v, htakes⟩ := exists_takes_of_drain h
    exact ⟨v, htakes.responses, fun _ _ => htakes.emits⟩

/-- Whatever the capacity, a stream that ends with a DRAIN leaves the events the state it starts
from comes to with the bytes that were taken (R121, R135). -/
theorem exists_emits_of_runInstrs {is : List Instr} {s t : State}
    (his : is.all isStreamCommand = true) (h : runInstrs (is ++ [.drain .rx]) s = .next t) :
    ∃ vs, t.rxResponses = s.rxResponses ++ vs ∧ Emits s (takenBytes is vs) t.history := by
  induction is generalizing s with
  | nil =>
    obtain ⟨u, hu, hnil⟩ := exists_exec_of_runInstrs_cons h
    obtain rfl := Host.Outcome.next.inj hnil
    obtain ⟨v, htakes⟩ := exists_takes_of_drain hu
    exact ⟨[v], htakes.responses, _, _, completes_of_drain hu⟩
  | cons i is ih =>
    obtain ⟨hi, his⟩ := Bool.and_eq_true_iff.mp his
    obtain ⟨u, hu, hrun⟩ := exists_exec_of_runInstrs_cons h
    obtain ⟨v, hv, hemits⟩ := exists_emits_of_exec hi hu
    obtain ⟨vs, hvs, hrest⟩ := ih his hrun
    refine ⟨v :: vs, by rw [hvs, hv, List.append_assoc]; rfl, ?_⟩
    rw [takenBytes_cons_cons]
    exact hemits _ _ hrest

/-! ### The obligations of the scanner family -/

/-- Settles O28: both runs leave what their common start comes to with the same bytes. -/
theorem streamDeterminism : Obligations.StreamDeterminism := by
  intro is s hcap his
  obtain ⟨t, ht⟩ := runInstrs_answers (is ++ [.drain .rx]) s
  obtain ⟨u, hu⟩ := runInstrs_answers (pushes (pushedBytes is) ++ [.drain .rx]) s
  have hpushed := completes_of_runInstrs hcap (all_isStreamCommand_pushes _) hu
  rw [pushedBytes_pushes] at hpushed
  obtain ⟨hprogress, hhist, hbuf⟩ := (completes_of_runInstrs hcap his ht).unique hpushed
  exact ⟨t, u, ht, hu, hbuf, hprogress, hhist⟩

/-- Settles O29: the run emits what the bytes it took come to, and so does the unbounded buffer. -/
theorem finiteCapacityKeepsTheEvents : Obligations.FiniteCapacityKeepsTheEvents := by
  intro is c _ his
  obtain ⟨t, ht⟩ := runInstrs_answers (is ++ [.drain .rx]) (State.resetWith c)
  obtain ⟨u, hu⟩ := runInstrs_answers (pushes (takenBytes is t.rxResponses) ++ [.drain .rx])
    State.reset
  obtain ⟨vs, hvs, hfinite⟩ := exists_emits_of_runInstrs his ht
  have hunbounded := completes_of_runInstrs rfl (all_isStreamCommand_pushes _) hu
  rw [pushedBytes_pushes] at hunbounded
  obtain rfl : t.rxResponses = vs := hvs
  have hhist : t.history = u.history := hfinite.unique rfl rfl ⟨_, _, hunbounded⟩
  exact ⟨t, u, ht, hu, frameOut_of_history hhist, errOut_of_history hhist⟩

/-- Settles O9: the op's command, and RESET's one update. -/
theorem resetCommandEmptiesOnlyTheBuffer : Obligations.ResetCommandEmptiesOnlyTheBuffer :=
  ⟨fun _ => decodeRecord_reset .rx, fun _ => rfl⟩

/-- Settles O10: a PUSH with room, into noise, and into a buffer with a start marker. -/
theorem pushAppendsFlushesOrRefuses : Obligations.PushAppendsFlushesOrRefuses :=
  ⟨fun _ hop => ⟨_, decodeRecord_push .rx hop⟩, fun _ data =>
    ⟨fun hroom => exec_push_of_room hroom data, fun hfull => exec_push_of_noise hfull data,
      fun hfull => exec_push_of_full hfull data⟩⟩

/-- Settles O12: the step that every buffer answers, applied. -/
theorem extractAppliesOneStep : Obligations.ExtractAppliesOneStep := by
  refine ⟨fun _ => decodeRecord_extract .rx, fun s => ?_⟩
  obtain ⟨r, hr⟩ := tryExtractOne_answers s.rxbuf
  exact ⟨r, hr, exec_extract_of_ok hr⟩

/-- Settles O13: the loop ends on every buffer, and DRAIN answers what it collects. -/
theorem drainRunsTheLoopToItsEnd : Obligations.DrainRunsTheLoopToItsEnd := by
  refine ⟨fun _ => decodeRecord_drain .rx, fun s => ?_⟩
  obtain ⟨rs, rest, hrs⟩ := exists_drains s.rxbuf
  exact ⟨rs, rest, hrs, exec_drain_of_drains hrs⟩

/-- Settles O14: what the relation of the loop says of its results. -/
theorem drainTerminatesWithinTheLength : Obligations.DrainTerminatesWithinTheLength := by
  intro s
  obtain ⟨rs, rest, hrs⟩ := exists_drains s.rxbuf
  exact ⟨_, rs, exec_drain_of_drains hrs, rfl, hrs.length_le, hrs.dropLast_discards, hrs.ends,
    hrs.rest_eq_drop, hrs.sum_discard_add_length⟩

/-- Settles O15: a full buffer holds a frame's length, so the EXTRACT discards a byte, and the
parameter it leaves as it was is no longer met. -/
theorem fullBufferMakesProgress : Obligations.FullBufferMakesProgress := by
  intro s data hinv hfull hs
  obtain ⟨hlegal, -⟩ := inv_iff.mp hinv
  have hlen : MAX_FRAME_LEN ≤ s.rxbuf.length := by simpa [Config.legal, hfull] using hlegal
  obtain ⟨r, hr⟩ := tryExtractOne_answers s.rxbuf
  have hpos := discard_ne_zero_of_marker hr hs hlen
  have hless : (s.rxbuf.drop r.discard).length < s.rxbuf.length := by
    have hle := discard_le_length hr
    rw [List.length_drop]
    omega
  refine ⟨_, _, exec_extract_of_ok hr, hless, exec_push_of_room ?_ data, rfl, rfl⟩
  rw [hfull]
  exact fun heq => hless.ne' (Option.some.inj heq)

/-- Settles O17: the forms of a buffer that steps 1 and 2 answer, and the two examples of R125. -/
theorem resyncAndLengthGate : Obligations.ResyncAndLengthGate := by
  refine ⟨fun _ => tryExtractOne_noMarker, fun _ rest hne hn => tryExtractOne_noise hne hn rest,
    fun _ => tryExtractOne_short, fun rest r hlen hr => ?_,
    tryExtractOne_unknown (h := 0x7F) (by decide) (by decide) 0x11 0x22 [], rfl⟩
  obtain ⟨hno, -⟩ | ⟨noise, _, hne, hn, heq, -⟩ | ⟨_, heq, hshort, -⟩ | ⟨_, -, -, -, rfl⟩
    | ⟨_, -, -, hpos, -, hnoise, -⟩ := tryExtractOne_cases hr
  · exact absurd List.mem_cons_self hno
  · obtain ⟨b, bs, rfl⟩ := List.exists_cons_of_ne_nil hne
    obtain ⟨rfl, -⟩ := List.cons.inj heq
    exact absurd List.mem_cons_self hn
  · obtain ⟨-, rfl⟩ := List.cons.inj heq
    omega
  · simp [waitFor]
  · have hwait := (discard_eq_zero_iff_isWait (tryExtractOne_lawful hr)).not.mp hpos.ne'
    rw [isWait_iff] at hwait
    tauto

/-- Settles O18: the three answers of the data branch, with the header's fields written out. -/
theorem dataFrameStep : Obligations.DataFrameStep := by
  intro h rest hlen hdata
  have hstep := tryExtractOne_dataHeader hdata hlen
  have htotal : totalLength h = (h &&& 0x0F).toNat + 3 + if h.getLsbD 5 then 4 else 2 := by
    rw [totalLength, idWidth, headerExt_eq_getLsbD]
    rfl
  refine ⟨fun hshort => ?_, fun last hlast hbad => ?_, fun hstop => ?_⟩
  · rw [← htotal] at hshort
    exact hstep.trans (scanData_short hshort)
  · rw [← htotal] at hlast ⊢
    exact hstep.trans (scanData_badStop hlast hbad)
  · rw [← htotal] at hstop ⊢
    rw [← headerExt_eq_getLsbD]
    exact hstep.trans (scanData_ok hstop)

/-- Settles O19: the length gate, then the error branch by the stop marker and the code. -/
theorem errorFrameStep : Obligations.ErrorFrameStep := by
  refine ⟨fun rest hlen => ⟨.waitShort, tryExtractOne_short (Nat.succ_lt_succ hlen)⟩,
    fun code last rest hlast => ?_, fun e rest => ?_, fun code rest hcode => ?_⟩
  · exact (tryExtractOne_typeError code last rest).trans (scanError_badStop hlast)
  · exact (tryExtractOne_typeError e.code STOP rest).trans (scanError_notification e)
  · exact (tryExtractOne_typeError code STOP rest).trans (scanError_failure hcode)

/-- Settles O20: the branch of the unrecognized types, and EXTRACT that applies it. -/
theorem unknownTypeStep : Obligations.UnknownTypeStep := by
  intro h a b rest hdata herror
  have hstep := tryExtractOne_unknown hdata herror a b rest
  refine ⟨hstep, fun s hs => ?_⟩
  rw [exec_extract_of_ok (by rw [hs]; exact hstep), hs]
  simp [skip, route]

/-- Settles O21: the bound by the form of the buffer; the rest is what a lawful result is. -/
theorem extractionBounds : Obligations.ExtractionBounds := by
  intro m r hr
  have hlawful := tryExtractOne_lawful hr
  refine ⟨discard_le_length hr, (discard_eq_zero_iff_isWait hlawful).trans isWait_iff,
    unit_eq_none_of_discard_eq_zero hlawful, fun f hu => ?_, fun e hu => ?_, fun c hu => ?_⟩ <;>
    simp only [ExtractResult.lawful, hu, Bool.and_eq_true, beq_iff_eq] at hlawful
  · obtain ⟨⟨-, hlen⟩, -⟩ := hlawful
    simpa [CanFrame.wireLength, idWidth] using hlen
  · obtain ⟨-, hlen⟩ := hlawful
    exact hlen
  · obtain ⟨⟨-, hlen⟩, -⟩ := hlawful
    exact hlen

/-- Settles O22: by the form of the buffer. -/
theorem prefixStability : Obligations.PrefixStability :=
  fun _ more _ hr hpos => tryExtractOne_append hr hpos.ne' more

/-- Settles O23: each kind of unit has its own event, or none. -/
theorem routingKeepsTheOutputsApart : Obligations.RoutingKeepsTheOutputsApart := by
  intro s r hr
  refine ⟨_, exec_extract_of_ok hr, emit_tx_of_noTx (noTx_route r.unit) s, fun f hu => ?_,
    fun e hu => ?_, fun c hu => ?_, fun hu => ?_⟩ <;>
    simp [State.frameOut, State.errOut, hu, route]

/-- Settles O30: the noise fits an unbounded buffer, which still holds no start marker. -/
theorem noiseIsRetained : Obligations.NoiseIsRetained := by
  intro noise s hcap hs hn
  have hstep : tryExtractOne (s.rxbuf ++ noise) = .ok (waitFor .waitNoMarker) :=
    tryExtractOne_noMarker (by simp [hs, hn])
  rw [runInstrs_pushes noise _ (by simp [Memory.fits, hcap]),
    runInstrs_cons_of_next (exec_extract_of_wait hstep rfl)]
  exact ⟨_, rfl, rfl, rfl, by simp [waitFor]⟩

/-- Settles O31: 0xAA is an unknown type byte, and behind the two markers there is none. -/
theorem strayStartLosesTheFrame : Obligations.StrayStartLosesTheFrame := by
  intro s a b body hbody hs
  have hunknown : tryExtractOne (START :: START :: a :: b :: body) = .ok (skip 2 .unknownType) :=
    tryExtractOne_unknown (by decide) (by decide) a b body
  have hwait : Drains (a :: b :: body) [waitFor .waitNoMarker] (a :: b :: body) :=
    .wait (List.cons_ne_nil _ _) (tryExtractOne_noMarker hbody) rfl
  have hdrains : Drains s.rxbuf [skip 2 .unknownType, waitFor .waitNoMarker] (a :: b :: body) :=
    hs ▸ .more (List.cons_ne_nil _ _) hunknown (by decide) hwait
  rw [exec_drain_of_drains hdrains]
  simp [skip, waitFor, route]

/-- Settles O43: on a buffer that passes steps 1 and 2 both are step 3 on the type byte. -/
theorem extractRunsTheFetchedWireRow : Obligations.ExtractRunsTheFetchedWireRow := by
  intro s h a b rest hs
  rw [exec_decodeType, wireStep_pass hs (by simp), exec, execExtract, onPort_own rfl, hs]
  exact congrArg (extractWith · s) (tryExtractOne_pass h a b rest)

/-- Settles O44: the answers of steps 1 and 2, which no branch is reached before. -/
theorem wireRowsPassTheGateFirst : Obligations.WireRowsPassTheGateFirst := by
  intro h s
  rw [exec_decodeType]
  refine ⟨fun hno => ?_, fun noise rest hne hn hs => ?_, fun rest hlen hs => ?_⟩
  · rw [wireStep_gate (scanGate_noMarker hno), extractWith_ok]
    simp [waitFor, route]
  · rw [wireStep_gate (hs ▸ scanGate_noise hne hn rest), extractWith_ok]
    simp [skip, route, hs]
  · rw [wireStep_gate (hs ▸ scanGate_short hlen), extractWith_ok]
    simp [waitFor, route]

end Sys2Proof.Machine

/-!
PROOFS of the host session family: send, receive and the error callback (R150 to R160). A command
the host issues is the step of the block and the delivery of what it put on `err_out`
(`command_of_exec`). An extraction loop goes over the results of `Passes` to the step that ends it,
a frame or a wait (`stepA_of_frame`, `stepA_of_wait`), and the PUSHes of a burst append to an
unbounded buffer (`pushAll_of_unbounded`). A receive is step (a) and, without a frame, its reads
(`receive_of_frame`, `receive_of_wait`).
-/

namespace Sys2Proof.Machine

/-! ### A command of the host (R156) -/

/-- A command whose step appends `es` to `err_out` and whose response is `v` hands `es` over and
answers `v`. -/
theorem command_of_exec {s : Session} {i : Instr} {p : Port} {t : State} {v : Response}
    {vs : List Response} {es : List ErrorNotification} (h : exec i s.block = .next t)
    (herr : t.errOut = s.block.errOut ++ es) (hv : t.responsesAt p = vs ++ [v]) :
    s.command i p = ({ s with block := t }.deliver es, .ok v) := by
  simp [Session.command, h, herr, hv]

/-- A command that puts nothing on `err_out` calls no callback. -/
theorem command_of_exec_silent {s : Session} {i : Instr} {p : Port} {t : State} {v : Response}
    {vs : List Response} (h : exec i s.block = .next t) (herr : t.errOut = s.block.errOut)
    (hv : t.responsesAt p = vs ++ [v]) :
    s.command i p = ({ s with block := t }, .ok v) := by
  rw [command_of_exec (es := []) h (by rw [herr, List.append_nil]) hv, deliver_nil]

/-! ### The calls of the callback (R156) -/

theorem deliver_of_sink_none {s : Session} (h : s.sink = none) (es : List ErrorNotification) :
    s.deliver es = s := by
  simp [Session.deliver, h]

theorem callsFor_append (s : Session) (rs rs' : List ExtractResult) :
    s.callsFor (rs ++ rs') = s.callsFor rs ++ s.callsFor rs' := by
  cases h : s.sink <;> simp [Session.callsFor, h]

@[simp] theorem callsFor_nil (s : Session) : s.callsFor [] = [] := by
  cases h : s.sink <;> simp [Session.callsFor, h]

theorem callsFor_of_sink_none {s : Session} (h : s.sink = none) (rs : List ExtractResult) :
    s.callsFor rs = [] := by
  simp [Session.callsFor, h]

/-- A last result whose unit is no notification adds no call. -/
theorem callsFor_concat (s : Session) (rs : List ExtractResult) {r : ExtractResult}
    (h : ∀ e, r.unit ≠ .error e) : s.callsFor (rs ++ [r]) = s.callsFor rs := by
  have hr : s.callsFor [r] = [] := by
    cases hs : s.sink with
    | none => exact callsFor_of_sink_none hs _
    | some k =>
      cases hu : r.unit with
      | error e => exact absurd hu (h e)
      | none | data f | decodeFailure c => simp [Session.callsFor, hs, hu]
  rw [callsFor_append, hr, List.append_nil]

/-- The calls for a result are the delivery of what its unit puts on `err_out`. -/
theorem deliver_route (s : Session) (r : ExtractResult) :
    s.deliver ((route r.unit).filterMap Event.notification)
      = { s with calls := s.calls ++ s.callsFor [r] } := by
  obtain hs | ⟨k, hs⟩ := Option.eq_none_or_eq_some s.sink
  · rw [deliver_of_sink_none hs, callsFor_of_sink_none hs, List.append_nil]
  · cases hu : r.unit <;> simp [Session.deliver, Session.callsFor, route, hs, hu]

/-! ### Extraction steps of the host (R129, R153) -/

/-- The session after EXTRACTs with the results `rs` that leave the buffer `m`. -/
def Session.extracted (s : Session) (rs : List ExtractResult) (m : Memory) : Session :=
  { s with
    block := { s.block with
      rxbuf := m
      history := s.block.history ++ routed rs
      rxResponses := s.block.rxResponses ++ rs.map fun r => { status := .ok, body := .result r } }
    calls := s.calls ++ s.callsFor rs }

section
variable (s : Session) (rs rs' : List ExtractResult) (m m' : Memory)

@[simp] theorem extracted_rxbuf : (s.extracted rs m).block.rxbuf = m := rfl
@[simp] theorem extracted_config : (s.extracted rs m).block.config = s.block.config := rfl
@[simp] theorem extracted_calls : (s.extracted rs m).calls = s.calls ++ s.callsFor rs := rfl
@[simp] theorem extracted_backlog : (s.extracted rs m).backlog = s.backlog := rfl
@[simp] theorem extracted_writes : (s.extracted rs m).writes = s.writes := rfl
@[simp] theorem extracted_callsFor :
    (s.extracted rs m).callsFor rs' = s.callsFor rs' := rfl
@[simp] theorem extracted_sink : (s.extracted rs m).sink = s.sink := rfl

@[simp] theorem extracted_frameOut : (s.extracted rs m).block.frameOut
    = s.block.frameOut ++ (routed rs).filterMap Event.frame := by
  simp [Session.extracted, State.frameOut]

theorem extracted_nil : s.extracted [] s.block.rxbuf = s := by
  simp [Session.extracted]

theorem extracted_extracted :
    (s.extracted rs m).extracted rs' m' = s.extracted (rs ++ rs') m' := by
  rw [Session.extracted, extracted_callsFor]
  simp [Session.extracted, callsFor_append]

end

/-- The host's EXTRACT of a buffer whose extraction step answers. -/
theorem command_extract {s : Session} {r : ExtractResult}
    (h : tryExtractOne s.block.rxbuf = .ok r) : s.command (.extract .rx) .rx
      = (s.extracted [r] (s.block.rxbuf.drop r.discard),
        .ok { status := .ok, body := .result r }) := by
  rw [command_of_exec (es := (route r.unit).filterMap Event.notification) (exec_extract_of_ok h)
    (by simp [State.errOut]) rfl, deliver_route]
  simp [Session.extracted, Session.callsFor]

/-! ### Step (a) (R153) -/

/-- A step that waits gives no unit (R131). -/
theorem unit_eq_none_of_wait {m : Memory} {r : ExtractResult} (h : tryExtractOne m = .ok r)
    (hwait : r.discard = 0) : r.unit = .none :=
  unit_eq_none_of_discard_eq_zero (tryExtractOne_lawful h) hwait

section
variable {s : Session} {r : ExtractResult} (h : tryExtractOne s.block.rxbuf = .ok r)
include h

/-- A step that gives a frame ends the loop with it. -/
theorem extractFrame_of_frame {f : CanFrame} (hf : r.unit = .data f) (fuel : Nat) :
    s.extractFrame (fuel + 1)
      = (s.extracted [r] (s.block.rxbuf.drop r.discard), .ok (some f)) := by
  simp [Session.extractFrame, command_extract h, hf]

/-- A step that waits ends the loop without a frame. -/
theorem extractFrame_of_wait (hwait : r.discard = 0) (fuel : Nat) :
    s.extractFrame (fuel + 1) = (s.extracted [r] s.block.rxbuf, .ok none) := by
  simp [Session.extractFrame, command_extract h, unit_eq_none_of_wait h hwait, hwait]

/-- A step that discards and gives no frame is followed by the loop on the rest. -/
theorem extractFrame_of_discard (hdiscard : r.discard ≠ 0) (hno : ∀ f, r.unit ≠ .data f)
    (fuel : Nat) : s.extractFrame (fuel + 1)
      = (s.extracted [r] (s.block.rxbuf.drop r.discard)).extractFrame fuel := by
  rw [Session.extractFrame, command_extract h]
  cases hu : r.unit with
  | data f => exact absurd hu (hno f)
  | none | error e | decodeFailure c => simp [hdiscard, hu]

end

/-- The loop goes over the steps in front, and has fuel for one more step behind them. -/
theorem extractFrame_passes {m₀ m : Memory} {rs : List ExtractResult} (h : Passes m₀ rs m)
    {s : Session} (hs : s.block.rxbuf = m₀) {fuel : Nat} (hfuel : m₀.length < fuel) :
    ∃ fuel', s.extractFrame fuel = (s.extracted rs m).extractFrame (fuel' + 1) := by
  induction h generalizing s fuel with
  | done m =>
    subst hs
    exact ⟨fuel - 1, by rw [extracted_nil, Nat.sub_add_cancel (by omega)]⟩
  | @step m₀ rest r rs step discards noFrame _ ih =>
    subst hs
    have hle := discard_le_length step
    obtain ⟨fuel, rfl⟩ := Nat.exists_eq_add_one_of_ne_zero (Nat.ne_zero_of_lt hfuel)
    obtain ⟨fuel', hloop⟩ := ih (s := s.extracted [r] (s.block.rxbuf.drop r.discard)) rfl
      (fuel := fuel) (by simp only [List.length_drop]; omega)
    exact ⟨fuel', by
      rw [extractFrame_of_discard step discards noFrame, hloop, extracted_extracted]; rfl⟩

/-- The steps in front emit no frame, so what a last step emits on `frame_out` is all. -/
theorem Passes.frames_concat {m₀ m : Memory} {rs : List ExtractResult} (h : Passes m₀ rs m)
    (r : ExtractResult) :
    (routed (rs ++ [r])).filterMap Event.frame = (route r.unit).filterMap Event.frame := by
  induction h with
  | done => simp
  | @step m₀ rest r' rs _ _ noFrame _ ih =>
    have hr' : (route r'.unit).filterMap Event.frame = [] := by
      cases hu : r'.unit with
      | data f => exact absurd hu (noFrame f)
      | none | error e | decodeFailure c => simp [route]
    rw [List.cons_append, routed_cons, List.filterMap_append, hr', ih, List.nil_append]

section
variable {s : Session} {rs : List ExtractResult} {m : Memory} {r : ExtractResult}
  (hp : Passes s.block.rxbuf rs m) (hr : tryExtractOne m = .ok r)
include hp hr

theorem stepA_of_frame {f : CanFrame} (hf : r.unit = .data f) :
    s.stepA = (s.extracted (rs ++ [r]) (m.drop r.discard), .ok (some f)) := by
  obtain ⟨fuel, hloop⟩ := extractFrame_passes hp rfl (Nat.lt_succ_self _)
  rw [Session.stepA, hloop, extractFrame_of_frame hr hf, extracted_extracted]
  rfl

theorem stepA_of_wait (hwait : r.discard = 0) :
    s.stepA = (s.extracted (rs ++ [r]) m, .ok none) := by
  obtain ⟨fuel, hloop⟩ := extractFrame_passes hp rfl (Nat.lt_succ_self _)
  rw [Session.stepA, hloop, extractFrame_of_wait hr hwait, extracted_extracted]
  rfl

end

/-! ### Going on where no frame has been found -/

theorem orElseFrame_frame (s : Session) (f : CanFrame)
    (k : Session → SessionResult (Option CanFrame)) :
    orElseFrame (s, .ok (some f)) k = (s, .ok (some f)) := rfl

theorem orElseFrame_none (s : Session) (k : Session → SessionResult (Option CanFrame)) :
    orElseFrame (s, .ok none) k = k s := rfl

/-! ### The PUSHes of step (b) (R154) -/

/-- The session after PUSHes of `bs` that were all taken. -/
def Session.pushed (s : Session) (bs : List Byte) : Session :=
  { s with block := { s.block with
      rxbuf := s.block.rxbuf ++ bs
      rxResponses := s.block.rxResponses ++ List.replicate bs.length (Response.plain .ok) } }

section
variable (s : Session) (bs : List Byte)

@[simp] theorem pushed_rxbuf : (s.pushed bs).block.rxbuf = s.block.rxbuf ++ bs := rfl
@[simp] theorem pushed_frameOut : (s.pushed bs).block.frameOut = s.block.frameOut := rfl
@[simp] theorem pushed_calls : (s.pushed bs).calls = s.calls := rfl
@[simp] theorem pushed_backlog : (s.pushed bs).backlog = s.backlog := rfl
@[simp] theorem pushed_callsFor (rs : List ExtractResult) :
    (s.pushed bs).callsFor rs = s.callsFor rs := rfl

theorem pushed_nil : s.pushed [] = s := by
  simp [Session.pushed]

theorem pushed_pushed (b : Byte) : (s.pushed [b]).pushed bs = s.pushed (b :: bs) := by
  simp [Session.pushed, List.replicate_succ]

end

theorem command_push_of_unbounded {s : Session} (h : s.block.config.rxbufCap = none) (b : Byte) :
    s.command (.push .rx b) .rx = (s.pushed [b], .ok (Response.plain .ok)) :=
  command_of_exec_silent (exec_push_of_unbounded h b) rfl rfl

/-- Bytes for an unbounded buffer are all taken, in order. -/
theorem feed_of_unbounded {bs : List Byte} {s : Session} (h : s.block.config.rxbufCap = none)
    (hback : s.backlog = []) {fuel : Nat} (hfuel : bs.length < fuel) :
    s.feed fuel bs = (s.pushed bs, .ok none) := by
  induction bs generalizing s fuel with
  | nil =>
    obtain ⟨fuel, rfl⟩ := Nat.exists_eq_add_one_of_ne_zero (Nat.ne_zero_of_lt hfuel)
    rw [pushed_nil, Session.feed, ← hback]
  | cons b bs ih =>
    obtain ⟨fuel, rfl⟩ := Nat.exists_eq_add_one_of_ne_zero (Nat.ne_zero_of_lt hfuel)
    rw [Session.feed, command_push_of_unbounded h]
    simp only [Response.plain, reduceCtorEq, if_false]
    rw [ih (s := s.pushed [b]) h hback (by simpa using hfuel), pushed_pushed]

theorem pushAll_of_unbounded {s : Session} (h : s.block.config.rxbufCap = none)
    (hback : s.backlog = []) (bs : List Byte) : s.pushAll bs = (s.pushed bs, .ok none) :=
  feed_of_unbounded h hback (by omega)

theorem stepB_of_unbounded {s : Session} (h : s.block.config.rxbufCap = none)
    (hback : s.backlog = []) (xs ys : List Byte) :
    s.stepB xs ys = (s.pushed (xs ++ ys)).stepA := by
  rw [Session.stepB, pushAll_of_unbounded h hback, orElseFrame_none]

/-! ### receive (R153 to R157) -/

/-- What a receive does once step (a) has given no frame: nothing under a poll, else its two reads
and step (b). -/
def Session.readOn (timeout : Timeout) (ticks : List Arrival) (burst : Option (List Byte))
    (s : Session) : SessionResult (Option CanFrame) :=
  if timeout.isPoll then (s, .ok none)
  else
    match blockingRead timeout ticks, burst with
    | .waiting, _ => (s, .error .stillWaiting)
    | .failed, _ => (s, .error .transportFailure)
    | .bytes xs, none => ({ s with backlog := xs }, .error .transportFailure)
    | .bytes xs, some ys => s.stepB xs ys

theorem receive_eq (timeout : Timeout) (ticks : List Arrival) (burst : Option (List Byte))
    (s : Session) : s.receive timeout ticks burst
      = orElseFrame (s.pushAll s.backlog) fun s =>
          orElseFrame s.stepA (Session.readOn timeout ticks burst) := rfl

/-- A receive depends on its timeout and the arrivals by whether it polls and how the blocking read
ends. -/
theorem receive_congr {timeout timeout' : Timeout} {ticks ticks' : List Arrival}
    (hpoll : timeout.isPoll = timeout'.isPoll)
    (hread : blockingRead timeout ticks = blockingRead timeout' ticks')
    (burst : Option (List Byte)) (s : Session) :
    s.receive timeout ticks burst = s.receive timeout' ticks' burst := by
  simp only [Session.receive, hpoll, hread]

section
variable {timeout : Timeout} {ticks : List Arrival} {burst : Option (List Byte)} (s : Session)
  (hpoll : timeout.isPoll = false)

theorem readOn_of_poll (h : timeout.isPoll = true) :
    s.readOn timeout ticks burst = (s, .ok none) := by
  simp [Session.readOn, h]

include hpoll

theorem readOn_of_waiting (h : blockingRead timeout ticks = .waiting) :
    s.readOn timeout ticks burst = (s, .error .stillWaiting) := by
  simp [Session.readOn, hpoll, h]

theorem readOn_of_failed (h : blockingRead timeout ticks = .failed) :
    s.readOn timeout ticks burst = (s, .error .transportFailure) := by
  simp [Session.readOn, hpoll, h]

theorem readOn_of_failed_burst {xs : List Byte} (h : blockingRead timeout ticks = .bytes xs) :
    s.readOn timeout ticks none = ({ s with backlog := xs }, .error .transportFailure) := by
  simp [Session.readOn, hpoll, h]

theorem readOn_of_bytes {xs : List Byte} (h : blockingRead timeout ticks = .bytes xs)
    (ys : List Byte) : s.readOn timeout ticks (some ys) = s.stepB xs ys := by
  simp [Session.readOn, hpoll, h]

end

section
variable {s : Session} {rs : List ExtractResult} {m : Memory} {r : ExtractResult}
  (hback : s.backlog = []) (hp : Passes s.block.rxbuf rs m) (hr : tryExtractOne m = .ok r)
  {timeout : Timeout} {ticks : List Arrival} {burst : Option (List Byte)}
include hback hp hr

theorem receive_of_frame {f : CanFrame} (hf : r.unit = .data f) :
    s.receive timeout ticks burst
      = (s.extracted (rs ++ [r]) (m.drop r.discard), .ok (some f)) := by
  rw [receive_eq, pushAll_empty_backlog hback, orElseFrame_none, stepA_of_frame hp hr hf,
    orElseFrame_frame]

theorem receive_of_wait (hwait : r.discard = 0) : s.receive timeout ticks burst
    = (s.extracted (rs ++ [r]) m).readOn timeout ticks burst := by
  rw [receive_eq, pushAll_empty_backlog hback, orElseFrame_none, stepA_of_wait hp hr hwait,
    orElseFrame_none]

/-- A failure of the blocking read is propagated, with the buffer as step (a) left it (R160). -/
theorem receive_of_failed (hwait : r.discard = 0) (hpoll : timeout.isPoll = false)
    (hread : blockingRead timeout ticks = .failed) :
    (s.receive timeout ticks burst).2 = .error .transportFailure
      ∧ (s.receive timeout ticks burst).1.block.rxbuf = m := by
  rw [receive_of_wait hback hp hr hwait, readOn_of_failed _ hpoll hread]
  exact ⟨rfl, rfl⟩

/-- So is a failure of the burst read (R160, log 13). -/
theorem receive_of_failed_burst (hwait : r.discard = 0) (hpoll : timeout.isPoll = false)
    {xs : List Byte} (hread : blockingRead timeout ticks = .bytes xs) :
    (s.receive timeout ticks none).2 = .error .transportFailure
      ∧ (s.receive timeout ticks none).1.block.rxbuf = m := by
  rw [receive_of_wait hback hp hr hwait, readOn_of_failed_burst _ hpoll hread]
  exact ⟨rfl, rfl⟩

end

/-! ### The blocking read after silence (R157) -/

/-- Without a timeout silence in front of an arrival is waited through. -/
theorem blockingRead_none_after_silence (n : Nat) (ticks : List Arrival) :
    blockingRead .none (List.replicate n (some []) ++ ticks) = blockingRead .none ticks :=
  firstArrival_after_silence .waiting n ticks

/-- Without a timeout silence alone does not end the read. -/
theorem blockingRead_none_silence (n : Nat) :
    blockingRead .none (List.replicate n (some [])) = .waiting :=
  firstArrival_silence .waiting n

/-- A duration expires on a transport that brings nothing. -/
theorem blockingRead_duration_nil (d : Nat) : blockingRead (.duration d) [] = .bytes [] := by
  rw [blockingRead, List.take_nil]
  rfl

theorem isPoll_duration {d : Nat} (h : 0 < d) : (Timeout.duration d).isPoll = false := by
  simp [Timeout.isPoll, h.ne']

/-- An arrival after more silence than the duration is not met. -/
theorem blockingRead_duration_short {n d : Nat} (h : d ≤ n) (ticks : List Arrival) :
    blockingRead (.duration d) (List.replicate n (some []) ++ ticks)
      = blockingRead (.duration d) [] := by
  rw [blockingRead_duration_nil, blockingRead, List.take_append_of_le_length (by simpa using h),
    List.take_replicate, firstArrival_silence]

/-- An arrival after less silence than the duration is the first tick that is looked at. -/
theorem blockingRead_duration_long {n d : Nat} (h : n < d) (a : Arrival) (later : List Arrival) :
    blockingRead (.duration d) (List.replicate n (some []) ++ a :: later)
      = firstArrival (.bytes []) (a :: later.take (d - n - 1)) := by
  rw [blockingRead, List.take_append, List.take_of_length_le (by simpa using h.le),
    firstArrival_after_silence, List.length_replicate, List.take_cons (by omega)]

/-! ### send (R151) -/

section
variable {id : Word32} {ext : Bool} {dlc : BitVec 4} {payload : List Byte} (ok : Bool) (s : Session)

/-- ENCODE_DATA of a payload that fits is one write of its frame. -/
theorem transmit_encodeData_of_fits (h : dlc.toNat ≤ ENC_MAX_PAYLOAD) :
    ∃ t : State, s.transmit (.encodeData .tx id ext dlc payload) ok
      = { s with block := t }.write (encodeDataFrame id ext dlc payload) ok := by
  refine ⟨(s.block.emit ((encodeDataFrame id ext dlc payload).map .tx)).respond .tx
    (Response.plain .ok), ?_⟩
  rw [Session.transmit, command_of_exec_silent (exec_encodeData_of_fits s.block h) (by simp) rfl]
  simp [Response.plain, emit_tx, List.filterMap_map]

/-- ENCODE_DATA of a longer payload is refused, and nothing is written. -/
theorem transmit_encodeData_of_tooLong (h : dlc.toNat > ENC_MAX_PAYLOAD) :
    ∃ t : State, s.transmit (.encodeData .tx id ext dlc payload) ok
      = ({ s with block := t }, .error .callerPrecondition) := by
  refine ⟨s.block.respond .tx (Response.plain .encLen), ?_⟩
  rw [Session.transmit, command_of_exec_silent (exec_encodeData_of_tooLong s.block h) rfl rfl]
  rfl

end

theorem payloadOperand_take {payload : List Byte} (h : payload.length ≤ 8) :
    (payloadOperand payload).take payload.length = payload := by
  rw [payloadOperand, List.take_take, Nat.min_eq_left h, List.take_left]

theorem toNat_ofNat_length {payload : List Byte} (h : payload.length ≤ DEC_MAX_DLC) :
    (BitVec.ofNat 4 payload.length).toNat = payload.length := by
  rw [BitVec.toNat_ofNat, Nat.mod_eq_of_lt (h.trans_lt (by decide))]

/-! ### The obligations of the host session family -/

/-- Settles O55: step (a) ends with the frame, before any read. -/
theorem receiveReturnsTheBufferedFrame : Obligations.ReceiveReturnsTheBufferedFrame := by
  intro s timeout ticks burst rs m r f hback hp hr hf
  refine ⟨_, receive_of_frame hback hp hr hf, rfl, hback, ?_, rfl, rfl, ?_⟩
  · rw [extracted_calls, callsFor_concat s rs (by simp [hf])]
  · rw [extracted_frameOut, hp.frames_concat, hf]
    rfl

/-- Settles O57: a payload of at most 8 bytes is encoded and written; of a longer one, ENCODE_DATA
refuses what its operands can state, and `send` the rest. -/
theorem sendWritesOneFrame : Obligations.SendWritesOneFrame := by
  intro s f ok
  refine ⟨fun hlen => ?_, fun hlen => ?_⟩
  · have hdec : f.payload.length ≤ DEC_MAX_DLC := hlen.trans (by decide)
    have hdlc := toNat_ofNat_length hdec
    obtain ⟨t, ht⟩ := transmit_encodeData_of_fits (id := f.identifier)
      (ext := f.addressWidth == .extended) (payload := payloadOperand f.payload) ok s
      (hdlc.trans_le hlen)
    rw [Session.send, if_neg (not_lt.mpr hdec), ht, encodeDataFrame_eq_leBytes, hdlc,
      payloadOperand_take hlen]
    simp [Session.write]
  · rw [Session.send]
    split_ifs with hdec
    · exact ⟨rfl, rfl⟩
    · have hdlc := toNat_ofNat_length (not_lt.mp hdec)
      obtain ⟨t, ht⟩ := transmit_encodeData_of_tooLong (id := f.identifier)
        (ext := f.addressWidth == .extended) (payload := payloadOperand f.payload) ok s
        (hdlc.symm ▸ hlen)
      rw [ht]
      exact ⟨rfl, rfl⟩

/-- Settles O58: EXTRACT's one result is the one call of the sink that stands. -/
theorem notificationsReachTheRegisteredSink : Obligations.NotificationsReachTheRegisteredSink := by
  intro s r e k k' hr he
  refine ⟨?_, fun hsink => ?_⟩
  · rw [command_extract (s := (s.onError k').onError k) hr]
    simp [Session.callsFor, Session.onError, he]
  · rw [command_extract hr, extracted_calls, callsFor_of_sink_none hsink, List.append_nil]

/-- Settles O59: step (b) is step (a) on the buffer that step (a) left with the two reads behind
it. -/
theorem receivePushesOneBurst : Obligations.ReceivePushesOneBurst := by
  intro s timeout ticks xs ys rs rs' m m' w r hback hcap hp hw hwait hpoll hread hp' hr
  have hreceive : s.receive timeout ticks (some ys)
      = ((s.extracted (rs ++ [w]) m).pushed (xs ++ ys)).stepA := by
    rw [receive_of_wait hback hp hw hwait, readOn_of_bytes _ hpoll hread,
      stepB_of_unbounded (s := s.extracted (rs ++ [w]) m) hcap hback]
  have hunit := unit_eq_none_of_wait hw hwait
  have hp'' : Passes ((s.extracted (rs ++ [w]) m).pushed (xs ++ ys)).block.rxbuf rs' m' := by
    simpa using hp'
  have hcalls (hno : ∀ e, r.unit ≠ .error e) : (s.extracted (rs ++ [w]) m).calls
      ++ s.callsFor (rs' ++ [r]) = s.calls ++ s.callsFor (rs ++ rs') := by
    rw [extracted_calls, callsFor_concat s rs (by simp [hunit]), callsFor_concat s rs' hno,
      callsFor_append, List.append_assoc]
  have hframes : (s.extracted (rs ++ [w]) m).block.frameOut = s.block.frameOut := by
    rw [extracted_frameOut, hp.frames_concat, hunit]
    simp [route]
  refine ⟨fun f hf => ⟨_, hreceive.trans (stepA_of_frame hp'' hr hf), rfl,
      hcalls (by simp [hf]), hback, ?_⟩,
    fun hwait' => ⟨_, hreceive.trans (stepA_of_wait hp'' hr hwait'), rfl,
      hcalls (by simp [unit_eq_none_of_wait hr hwait']), hback, ?_⟩⟩
  · rw [extracted_frameOut, pushed_frameOut, hframes, hp''.frames_concat, hf]
    rfl
  · rw [extracted_frameOut, pushed_frameOut, hframes, hp''.frames_concat,
      unit_eq_none_of_wait hr hwait']
    simp [route]

/-- Settles O60: a receive is fixed by how its blocking read ends, and the reads come after step (a)
has left its buffer. -/
theorem receiveWaitsAsItsTimeoutSays : Obligations.ReceiveWaitsAsItsTimeoutSays := by
  intro s n b bs later burst rs m w hback hp hw hwait silence
  have hlong {d : Nat} (hd : n < d) : (Timeout.duration d).isPoll = false :=
    isPoll_duration (Nat.zero_lt_of_lt hd)
  have hsilent : (s.receive .none silence burst).2 = .error .stillWaiting := by
    rw [receive_of_wait hback hp hw hwait,
      readOn_of_waiting _ rfl (blockingRead_none_silence n)]
  obtain ⟨hfails, hkeeps⟩ := receive_of_failed hback hp hw (timeout := .none)
    (ticks := silence ++ none :: later) (burst := burst) hwait rfl
    (blockingRead_none_after_silence n _)
  obtain ⟨hburst, hburstKeeps⟩ := receive_of_failed_burst hback hp hw (timeout := .none)
    (ticks := [some (b :: bs)]) hwait rfl rfl
  exact ⟨receive_congr rfl (blockingRead_none_after_silence n _) burst s,
    fun d hd => receive_congr (hlong hd) (blockingRead_duration_long hd _ later) burst s,
    fun d hd => receive_congr rfl (blockingRead_duration_short hd _) burst s,
    hsilent, hfails, hkeeps,
    fun d hd => receive_of_failed hback hp hw hwait (hlong hd)
      (blockingRead_duration_long hd none later),
    fun d hd => receive_congr rfl (blockingRead_duration_short hd _) burst s,
    hburst, hburstKeeps,
    fun d hd => receive_of_failed_burst hback hp hw hwait (isPoll_duration hd)
      (blockingRead_duration_nil d)⟩

/-- Settles O56: the extraction step of an empty buffer waits, and a poll reads nothing. -/
theorem pollOfAnEmptyBufferReturnsNothing : Obligations.PollOfAnEmptyBufferReturnsNothing := by
  intro s ticks burst hback hempty
  have hw : tryExtractOne [] = .ok (waitFor .waitNoMarker) := tryExtractOne_noMarker (by simp)
  have hp : Passes s.block.rxbuf [] [] := hempty ▸ .done _
  have hcalls : s.callsFor ([] ++ [waitFor .waitNoMarker]) = s.callsFor [] :=
    callsFor_concat s [] (by simp [waitFor])
  rw [receive_of_wait hback hp hw rfl, readOn_of_poll _ rfl]
  exact ⟨rfl, rfl, by rw [extracted_calls, hcalls, callsFor_nil, List.append_nil]⟩

end Sys2Proof.Machine

/-!
PROOFS of the exceptions family: a command that is refused (R77, R121, R171). What an RX instruction
can do to a state is one of four effects (`exec_rx_effect`), what a TX instruction can do is one of
two (`exec_tx_effect`); with a status other than OK each of them comes to the response alone
(`exec_eq_respond_of_status_ne_ok`).
-/

namespace Sys2Proof.Machine

/-! ### The response an instruction of each agent returned (R29) -/

theorem foldl_applyResult_rxResponses (rs : List ExtractResult) (s : State) :
    (rs.foldl State.applyResult s).rxResponses = s.rxResponses := by
  induction rs generalizing s with
  | nil => rfl
  | cons r rs ih => exact ih (s.applyResult r)

/-- A response is fixed by what it was appended to at its port. -/
theorem response_eq_of_respond {s u : State} {p : Port} {v w : Response}
    (hu : u.responsesAt p = s.responsesAt p)
    (h : (u.respond p w).responsesAt p = s.responsesAt p ++ [v]) : w = v := by
  cases p with
  | rx | tx => simp_all

/-! ### Refusals at the RX port (R77, R121) -/

/-- Only an OK response of the RX port carries extraction results. -/
theorem extractions_eq_nil_of_status_ne_ok {v : Response} (hv : v.lawfulAt .rx = true)
    (hstatus : v.status ≠ .ok) : v.extractions = [] := by
  obtain ⟨status, body⟩ := v
  cases body with
  | plain => rfl
  | result r | results rs => cases status <;> simp_all [Response.lawfulAt]

theorem rxEffect_eq_respond_of_status_ne_ok {i : Instr} {s t : State} {v : Response}
    (h : RxEffect i s t) (hv : t.responsesAt .rx = s.responsesAt .rx ++ [v])
    (hstatus : v.status ≠ .ok) : t = s.respond .rx v := by
  cases h with
  | extracted w lawful =>
    obtain rfl := response_eq_of_respond (p := .rx) (foldl_applyResult_rxResponses _ s) hv
    rw [extractions_eq_nil_of_status_ne_ok lawful hstatus, List.foldl_nil]
  | cleared | appended | flushed =>
    obtain rfl := response_eq_of_respond (p := .rx) rfl hv
    exact absurd rfl hstatus

/-! ### Refusals at the TX port (R77, R100) -/

/-- What a TX instruction can do: it is refused and changes nothing, or it emits bytes on `tx` and
answers OK (R77, R100, R103). -/
theorem exec_tx_effect {i : Instr} {s t : State} (hi : agentOf i = .tx) (h : exec i s = .next t) :
    (∃ w, w.status ≠ .ok ∧ t = s.respond .tx w)
      ∨ ∃ out : List Byte, t = (s.emit (out.map Event.tx)).respond .tx (Response.plain .ok) := by
  cases i <;> cases hi
  case encodeData id ext dlc payload =>
    by_cases hlen : dlc.toNat > ENC_MAX_PAYLOAD
    · rw [exec_encodeData_of_tooLong s hlen] at h
      cases h; exact .inl ⟨Response.plain .encLen, by decide, rfl⟩
    · rw [exec_encodeData_of_fits s (not_lt.mp hlen)] at h
      cases h; exact .inr ⟨_, rfl⟩
  case encodeConfig => cases h; exact .inr ⟨_, rfl⟩
  all_goals cases h; exact .inl ⟨Response.plain .badOp, by decide, rfl⟩

/-! ### The obligation -/

/-- An instruction answered with a status other than OK changed nothing but its port's responses. -/
theorem exec_eq_respond_of_status_ne_ok {i : Instr} {s t : State} {v : Response}
    (h : exec i s = .next t)
    (hv : t.responsesAt (agentOf i) = s.responsesAt (agentOf i) ++ [v])
    (hstatus : v.status ≠ .ok) : t = s.respond (agentOf i) v := by
  cases hi : agentOf i with
  | rx =>
    rw [hi] at hv
    exact rxEffect_eq_respond_of_status_ne_ok (exec_rx_effect hi h) hv hstatus
  | tx =>
    rw [hi] at hv
    obtain ⟨w, -, rfl⟩ | ⟨out, rfl⟩ := exec_tx_effect hi h
    · obtain rfl := response_eq_of_respond (p := .tx) rfl hv
      rfl
    · obtain rfl := response_eq_of_respond (p := .tx) rfl hv
      exact absurd rfl hstatus

/-- Settles O7: a refused command did nothing but respond, and a response is neither in the buffer
nor in the history. -/
theorem nonOkStatusChangesNothing : Obligations.NonOkStatusChangesNothing := by
  intro i s t v h hv hstatus
  rw [exec_eq_respond_of_status_ne_ok h hv hstatus]
  exact ⟨respond_rxbuf .., respond_history ..⟩

end Sys2Proof.Machine
